-- ==== Sys2Proof/Word.lean ====
section
/-! DEFINITION. The bit-vector widths of libmp-MAE (10_state.md R30, R45; 20_memory.md R80 to R82). -/

namespace Sys2Proof

/-- One byte of system memory (R82). -/
abbrev Byte := BitVec 8

/-- One 64-bit register, command word or bus datum (R30, R110). -/
abbrev Word := BitVec 64

/-- One 128-bit operand or latch (R45, R60). -/
abbrev Wide := BitVec 128

/-- A 64-bit system-memory address (R80, R81). -/
abbrev Addr := BitVec 64

/-- A byte offset into the 4096-byte register window (R30, R80). -/
abbrev Offset := BitVec 12

end Sys2Proof
end

