-- ==== Sys2Proof/Config.lean ====
section
/-! DEFINITION. What an implementation of libmp-MAE fixes (00_scope.md R8), the OPEN parameters that are no state, and
the free values. -/

namespace Sys2Proof.Config

/-- TABLE_BYTES: the size of the internal table memory (R8, R62). -/
def tableBytes : Nat := 1048576

/-- The least legal TBLBUDGET (R42). -/
def budgetFloor : Nat := 32

/-- The value of ID (R36). -/
def idWord : Word := 0x4C49424D50000007#64

/-- Bits 63:12 of BLOCK_BASE, the OPEN base address of the register window; it is a multiple of 4096 (R8, R30). -/
opaque blockPage : BitVec 52

/-- IRQ_LINE, the OPEN number of the platform's interrupt input that the IRQ output drives (R8, R262). -/
opaque irqLine : Nat

/-- FREE VALUE. The byte that the `n`-th free draw gives: a byte that another agent stored while the command ran (R92,
U7), or one from memory whose reads are not idempotent (R88, U8). Nothing constrains it (log 1). -/
opaque freeByte : Nat → Byte

/-- FREE VALUE. The result that the `n`-th free draw gives: what ISPRIME_C and NEXTPRIME_C return for a bitset in memory
whose reads are not idempotent (R88, U8; log 18). Nothing constrains it. -/
opaque freeResult : Nat → Wide

/-- FREE VALUE. The byte that system memory holds at an address to which nothing has stored: one value for each address,
the same at every read (R88, R91). The spec gives none; nothing constrains it (log 2). -/
opaque unwrittenByte : Nat → Byte

/-- BLOCK_BASE (R30): the page number with twelve zero bits. -/
def blockBase : Addr := blockPage ++ 0#12

end Sys2Proof.Config
end

