-- ==== Sys2Proof/Syntax.lean ====
section
/-! DEFINITION. The command set (30_encoding.md R110 to R119), the register map (10_state.md R33), the error codes
(60_exceptions.md R250) and the events the block meets (20_memory.md R90). -/

namespace Sys2Proof

/-- The width of a command (R112). -/
inductive Width where
  | w64
  | w128
deriving DecidableEq, Repr

/-- The three fields of a command word (R111). -/
structure CmdFields where
  rsv : BitVec 55
  w   : BitVec 1
  op  : BitVec 8
deriving DecidableEq, Repr

/-- The commands, one constructor per row of the opcode table (R113). A command has no operand field: its operands are
the latched registers (R110, R118). -/
inductive Instr where
  | mulmod64
  | addmod64
  | pow2f64
  | pow2b64
  | pow2l64
  | powl64
  | dlogMn64
  | dlogPl64
  | dlogBg64
  | dlogMnLim64
  | dlogPlLim64
  | dlogBgLim64
  | isprime64
  | isprimeW6n64
  | isprimeW30n64
  | isprimeC64
  | nextprimeC64
  | mulmod128
  | addmod128
  | pow2f128
  | pow2b128
  | pow2l128
  | powl128
  | dlogMn128
  | dlogPl128
  | dlogBg128
  | dlogMnLim128
  | dlogPlLim128
  | dlogBgLim128
  | isprime128
  | isprimeW6n128
  | isprimeW30n128
  | isprimeC128
  | nextprimeC128
deriving DecidableEq, Repr

/-- The three operand registers (R45). -/
inductive OperandReg where
  | p
  | a
  | b
deriving DecidableEq, Repr

/-- The registers of the window that have a name (R33). -/
inductive Reg where
  | id
  | ctrl
  | cmd
  | status
  | errcode
  | tblBudget
  | bsBase
  | bsLen
  | pLo
  | pHi
  | aLo
  | aHi
  | bLo
  | bHi
  | rLo
  | rHi
deriving DecidableEq, Repr

/-- The errors a command can end in (R250); code 0, NONE, is the absence of one. -/
inductive ErrorCode where
  /-- reserved OP or RSV ≠ 0 (R251) -/
  | illegalCommand
  /-- modulus p ≤ 0 (R252) -/
  | invalidOperand
  /-- even p for an odd-only operation (R253) -/
  | evenModulus
  /-- a, b, k or base out of range (R254) -/
  | operandRange
  /-- bitset region wraps, or an index or limit outside it (R257) -/
  | bitsetRange
  /-- a bitset byte read returned a bus error (R258) -/
  | memFault
  /-- the giant steps of DLOG_BG ended without a hit (R259) -/
  | exhausted
deriving DecidableEq, Repr

/-- One event of the block's history (R90): it comes from outside, or is the instant at which the running command reads
memory or reaches its completion. -/
inductive Event where
  /-- a host read of `width` bytes at an offset of the window (R31) -/
  | hostRead (width : Nat) (offset : Offset)
  /-- a host write of `width` bytes at an offset of the window (R31) -/
  | hostWrite (width : Nat) (offset : Offset) (data : Word)
  /-- another bus agent stores a byte into system memory (R92) -/
  | memStore (addr : Addr) (byte : Byte)
  /-- the running command makes its next one-byte read of system memory, if it has one left (R84, R90, R91) -/
  | blockRead
  /-- the running command makes the reads it has left and completes (R49, R90, R91; log 7) -/
  | completion
  /-- the platform's reset (R280) -/
  | reset
deriving DecidableEq, Repr

/-- What the block answers to a host access on the bus (R31, R90, R265). -/
inductive Response where
  /-- an accepted read returns the register -/
  | data (v : Word)
  /-- an accepted write -/
  | ack
  /-- a refused access -/
  | busError
deriving DecidableEq, Repr

end Sys2Proof
end

