-- ==== Sys2Proof/WellFormed.lean ====
section
/-! DEFINITION. Which field values form a command (30_encoding.md R111, R113, R114). A constructor of Instr has no
field that could be ill-formed; the checks are those on the fields of a command word. -/

namespace Sys2Proof

/-- The 17 defined OP values (R113). -/
def definedOps : List (BitVec 8) :=
  [0x01#8, 0x02#8, 0x08#8, 0x09#8, 0x0A#8, 0x0B#8, 0x10#8, 0x11#8, 0x12#8, 0x14#8, 0x15#8, 0x16#8, 0x20#8, 0x21#8,
    0x22#8, 0x24#8, 0x25#8]

/-- RSV must be 0 (R111). -/
def CmdFields.rsvClear (f : CmdFields) : Bool := f.rsv == 0#55

/-- OP must be one of the defined values (R113). -/
def CmdFields.opDefined (f : CmdFields) : Bool := definedOps.contains f.op

/-- A command word's fields are well-formed when it is one of the 34 defined commands (R114). -/
def CmdFields.wellFormed (f : CmdFields) : Bool := f.rsvClear && f.opDefined

end Sys2Proof
end

