-- ==== Sys2Proof/Decode.lean ====
section
/-! DEFINITION. Decoding a command word (30_encoding.md R110 to R117), its inverse, and the operand assignment of
R118. -/

namespace Sys2Proof

/-- W as a number of bits. -/
def bitsOf : Width → Nat
  | .w64 => 64
  | .w128 => 128

/-- The width of a command (R112, R113). -/
def widthOf : Instr → Width
  | .mulmod64 | .addmod64 | .pow2f64 | .pow2b64 | .pow2l64 | .powl64
  | .dlogMn64 | .dlogPl64 | .dlogBg64 | .dlogMnLim64 | .dlogPlLim64 | .dlogBgLim64
  | .isprime64 | .isprimeW6n64 | .isprimeW30n64 | .isprimeC64 | .nextprimeC64 => .w64
  | .mulmod128 | .addmod128 | .pow2f128 | .pow2b128 | .pow2l128 | .powl128
  | .dlogMn128 | .dlogPl128 | .dlogBg128 | .dlogMnLim128 | .dlogPlLim128 | .dlogBgLim128
  | .isprime128 | .isprimeW6n128 | .isprimeW30n128 | .isprimeC128 | .nextprimeC128 => .w128

/-- Why bytes are no command (R114, R117). -/
inductive DecodeError where
  /-- RSV (bits 63:9) is not 0 -/
  | reservedBits
  /-- OP is not a value of R113 -/
  | reservedOp (op : BitVec 8)
  /-- not the eight bytes of a command word (R110) -/
  | wrongLength (n : Nat)
deriving DecidableEq, Repr

/-- One row of the opcode map (R113): an OP value and its commands at the two widths. -/
structure OpRow where
  op    : BitVec 8
  at64  : Instr
  at128 : Instr
deriving DecidableEq, Repr

/-- The opcode map (R113). -/
def opMap : List OpRow :=
  [⟨0x01#8, .mulmod64, .mulmod128⟩, ⟨0x02#8, .addmod64, .addmod128⟩] ++
  [⟨0x08#8, .pow2f64, .pow2f128⟩, ⟨0x09#8, .pow2b64, .pow2b128⟩, ⟨0x0A#8, .pow2l64, .pow2l128⟩,
    ⟨0x0B#8, .powl64, .powl128⟩] ++
  [⟨0x10#8, .dlogMn64, .dlogMn128⟩, ⟨0x11#8, .dlogPl64, .dlogPl128⟩, ⟨0x12#8, .dlogBg64, .dlogBg128⟩,
    ⟨0x14#8, .dlogMnLim64, .dlogMnLim128⟩, ⟨0x15#8, .dlogPlLim64, .dlogPlLim128⟩,
    ⟨0x16#8, .dlogBgLim64, .dlogBgLim128⟩] ++
  [⟨0x20#8, .isprime64, .isprime128⟩, ⟨0x21#8, .isprimeW6n64, .isprimeW6n128⟩,
    ⟨0x22#8, .isprimeW30n64, .isprimeW30n128⟩, ⟨0x24#8, .isprimeC64, .isprimeC128⟩,
    ⟨0x25#8, .nextprimeC64, .nextprimeC128⟩]

/-- The fields of a command word (R111). -/
def fieldsOf (c : Word) : CmdFields :=
  { rsv := c.extractLsb' 9 55, w := c.extractLsb' 8 1, op := c.extractLsb' 0 8 }

/-- The command word of the fields (R111). -/
def wordOf (f : CmdFields) : Word := (f.rsv ++ f.w ++ f.op : BitVec 64)

/-- The command of a row of the opcode map at the width the W bit selects (R112). -/
def OpRow.select (r : OpRow) (w : BitVec 1) : Instr := if w = 1#1 then r.at128 else r.at64

/-- Decoding a command word (R117): RSV first, then OP. -/
def decode (c : Word) : Except DecodeError Instr :=
  let f := fieldsOf c
  if f.rsv = 0#55 then
    match opMap.find? (fun r => r.op == f.op) with
    | some r => .ok (r.select f.w)
    | none => .error (.reservedOp f.op)
  else .error .reservedBits

/-- The OP value of a command (R113). -/
def opOf : Instr → BitVec 8
  | .mulmod64 | .mulmod128 => 0x01#8
  | .addmod64 | .addmod128 => 0x02#8
  | .pow2f64 | .pow2f128 => 0x08#8
  | .pow2b64 | .pow2b128 => 0x09#8
  | .pow2l64 | .pow2l128 => 0x0A#8
  | .powl64 | .powl128 => 0x0B#8
  | .dlogMn64 | .dlogMn128 => 0x10#8
  | .dlogPl64 | .dlogPl128 => 0x11#8
  | .dlogBg64 | .dlogBg128 => 0x12#8
  | .dlogMnLim64 | .dlogMnLim128 => 0x14#8
  | .dlogPlLim64 | .dlogPlLim128 => 0x15#8
  | .dlogBgLim64 | .dlogBgLim128 => 0x16#8
  | .isprime64 | .isprime128 => 0x20#8
  | .isprimeW6n64 | .isprimeW6n128 => 0x21#8
  | .isprimeW30n64 | .isprimeW30n128 => 0x22#8
  | .isprimeC64 | .isprimeC128 => 0x24#8
  | .nextprimeC64 | .nextprimeC128 => 0x25#8

/-- The fields of a command (R111, R112): RSV is 0. -/
def Instr.fields (i : Instr) : CmdFields :=
  { rsv := 0#55, w := match widthOf i with | .w64 => 0#1 | .w128 => 1#1, op := opOf i }

/-- A command is well-formed when its fields are (R114). Every constructor is. -/
def Instr.wellFormed (i : Instr) : Bool := i.fields.wellFormed

/-- The command word of a command (R111, R113): OP + 256·W. -/
def encode (i : Instr) : Word := wordOf i.fields

/-- Byte `k` of a word, little-endian (R32). -/
def wordByte (c : Word) (k : Nat) : Byte := c.extractLsb' (8 * k) 8

/-- The bytes of a word as they stand at rising offsets (R32). -/
def bytesOfWord (c : Word) : List Byte := (List.range 8).map (wordByte c)

/-- Decoding the bytes of a command word, lowest offset first (R32, R110, R117). -/
def decodeBytes : List Byte → Except DecodeError Instr
  | [b0, b1, b2, b3, b4, b5, b6, b7] => decode (b7 ++ b6 ++ b5 ++ b4 ++ b3 ++ b2 ++ b1 ++ b0 : BitVec 64)
  | bs => .error (.wrongLength bs.length)

/-- The command that the decoder reads from a table row's bits: the 64-bit word, laid out little-endian (R32). A
command word has 64 bits (R110), so bits of `w` at `nbits` and above are 0 and none lies above bit 63. -/
def decodeTableWord (nbits w : Nat) : Option Instr :=
  match decodeBytes (bytesOfWord (BitVec.ofNat 64 (w % 2 ^ nbits))) with
  | .ok i => some i
  | .error _ => none

/-- The registers from which a command reads its operands, in the order of the columns of R118. -/
def operandsOf : Instr → List OperandReg
  | .mulmod64 | .mulmod128 | .addmod64 | .addmod128 | .powl64 | .powl128 => [.p, .a, .b]
  | .pow2f64 | .pow2f128 | .pow2b64 | .pow2b128 | .pow2l64 | .pow2l128 => [.p, .a]
  | .dlogMn64 | .dlogMn128 | .dlogPl64 | .dlogPl128 | .dlogBg64 | .dlogBg128 => [.p]
  | .dlogMnLim64 | .dlogMnLim128 | .dlogPlLim64 | .dlogPlLim128 | .dlogBgLim64 | .dlogBgLim128 => [.p, .a]
  | .isprime64 | .isprime128 | .isprimeW6n64 | .isprimeW6n128 | .isprimeW30n64 | .isprimeW30n128 => [.p]
  | .isprimeC64 | .isprimeC128 => [.p]
  | .nextprimeC64 | .nextprimeC128 => [.p, .a]

end Sys2Proof
end

