-- ==== Sys2Proof/Machine/State.lean ====
section
/-! DEFINITION. The state of libmp-MAE (10_state.md), with the system memory the block reads (20_memory.md) and what is
still to come from outside (R90). Plain data. -/

namespace Sys2Proof.Machine

/-- The bits of STATUS (R39). -/
structure Status where
  busy     : Bool
  done     : Bool
  err      : Bool
  degraded : Bool
  capped   : Bool
  ovr      : Bool
deriving DecidableEq, Repr

/-- The latches, which the issue step loads (R48, R60). -/
structure Latches where
  cmd    : Word
  p      : Wide
  a      : Wide
  b      : Wide
  budget : Word
  bsBase : Word
  bsLen  : Word
deriving DecidableEq, Repr

/-- The working values of a running command (R61): residues, counters and the step size, as integers (R9). -/
structure Work where
  v  : Nat
  r  : Nat
  y  : Nat
  am : Nat
  s  : Nat
  i  : Nat
  j  : Nat
  m  : Nat
deriving DecidableEq, Repr

/-- One (value, index) pair of the BSGS table (R62, R192). -/
structure TableEntry where
  value : Nat
  index : Nat
deriving DecidableEq, Repr

/-- A range of system addresses: `base` to `base + size − 1`. -/
structure MemRange where
  base : Nat
  size : Nat
deriving DecidableEq, Repr

/-- The machine. -/
structure State where
  /-- CTRL.IE (R37) -/
  ie        : Bool
  /-- STATUS (R39) -/
  status    : Status
  /-- ERRCODE[7:0] (R41) -/
  errcode   : BitVec 8
  /-- TBLBUDGET (R42) -/
  tblBudget : Word
  /-- BSBASE (R43) -/
  bsBase    : Word
  /-- BSLEN (R44) -/
  bsLen     : Word
  /-- the operand and result registers (R45) -/
  pLo       : Word
  pHi       : Word
  aLo       : Word
  aHi       : Word
  bLo       : Word
  bHi       : Word
  rLo       : Word
  rHi       : Word
  /-- the latches (R60) -/
  latch     : Latches
  /-- the working values (R61); none when no run holds them -/
  work      : Option Work
  /-- the entries of the table memory that the run has written (R62) -/
  table     : List TableEntry
  /-- system memory (R81): the bytes that have been stored, addresses strictly rising (log 2) -/
  mem       : List Host.Cell
  /-- MEM_READABLE (R82), the platform's parameter; it alone says whether the addresses of the block's own window are
  readable (DESIGN CHOICE, log 3) -/
  readable  : List MemRange
  /-- memory whose reads are not idempotent (R88), the platform's parameter -/
  volatile  : List MemRange
  /-- addresses stored to by another agent since the issue of the running command (R92) -/
  touched   : List Nat
  /-- the answers to the memory reads that the running command has made as events of their own and has still to use,
  oldest first (R84, R90, R91); none is a bus error -/
  bytesRead : List (Option Byte)
  /-- the model's own: the events still to come, the next one first (R90) -/
  inputs    : List Event
  /-- the model's own: the answers to host accesses, oldest first -/
  responses : List Response
  /-- the model's own: the addresses the block has read, oldest first (R91) -/
  reads     : List Nat
  /-- the model's own: the number of free values drawn (log 1) -/
  draws     : Nat
deriving DecidableEq, Repr

/-- Why the machine stops with a fault. Nothing of the spec stops the machine: an error of a command is an error
completion (R256), a refused access is an answer on the bus (R265). So there is no fault. -/
inductive Fault where
deriving DecidableEq, Repr

/-- Why a command has no meaning here. -/
inductive Refusal where
  /-- A command of the opcode table that the model gives no meaning yet; raised by an arm of exec only; safe. -/
  | notModelled (mnemonic : String)
deriving DecidableEq, Repr

/-- STATUS after reset (R280). -/
def Status.clear : Status :=
  { busy := false, done := false, err := false, degraded := false, capped := false, ovr := false }

/-- The latches after reset: the spec gives none (R280); DESIGN CHOICE 0, log 5. -/
def Latches.zero : Latches := { cmd := 0, p := 0, a := 0, b := 0, budget := 0, bsBase := 0, bsLen := 0 }

/-- The machine right after reset (R280), with nothing stored in system memory, nothing to come from outside, and all
addresses readable, those of the block's own window among them (DESIGN CHOICE, log 3: R82 leaves the set OPEN). -/
def State.reset : State where
  ie := false
  status := Status.clear
  errcode := 0
  tblBudget := 0x100000
  bsBase := 0
  bsLen := 0
  pLo := 0
  pHi := 0
  aLo := 0
  aHi := 0
  bLo := 0
  bHi := 0
  rLo := 0
  rHi := 0
  latch := Latches.zero
  work := none
  table := []
  mem := []
  readable := [⟨0, 2 ^ 64⟩]
  volatile := []
  touched := []
  bytesRead := []
  inputs := []
  responses := []
  reads := []
  draws := 0

end Sys2Proof.Machine
end

