-- ==== Sys2Proof/Machine/Arith.lean ====
section
/-! DEFINITION. The integer functions and modular steps of 00_scope.md R12, R13 and the multiplier's datapaths
(40_widearith.md R143, R145, R148). Integers are exact (R9). -/

namespace Sys2Proof.Machine

/-- The smallest q with q·b ≥ a, for b > 0 (R12). -/
def ceildiv (a b : Nat) : Nat := (a + b - 1) / b

/-- One bit of the square root at a time, the highest first: `r` is the root found so far. -/
def isqrtBits (n : Nat) : Nat → Nat → Nat
  | 0, r => r
  | k + 1, r => if (r + 2 ^ k) * (r + 2 ^ k) ≤ n then isqrtBits n k (r + 2 ^ k) else isqrtBits n k r

/-- Floor square root (R12), for n < 2^128: its 64 bits. -/
def isqrt (n : Nat) : Nat := isqrtBits n 64 0

/-- Ceiling square root (R12), for n < 2^128. -/
def csqrt (n : Nat) : Nat := if isqrt n * isqrt n = n then isqrt n else isqrt n + 1

/-- Modular doubling of a residue (R13). -/
def dbl (p v : Nat) : Nat := if p ≤ 2 * v then 2 * v - p else 2 * v

/-- Modular halving of a residue, for odd p (R13). -/
def hlv (p v : Nat) : Nat := if v % 2 = 0 then v / 2 else (v + p) / 2

/-- `n` steps of `f` from `v`. -/
def repeatStep (f : Nat → Nat) : Nat → Nat → Nat
  | 0, v => v
  | n + 1, v => repeatStep f n (f v)

/-- The 64-bit multiplier (R143): the 64-bit product where it cannot overflow, else the 128-bit product. -/
def mulmodPath64 (p a b : Nat) : Nat :=
  if b = 0 ∨ a ≤ (2 ^ 63 - 1) / b then (a * b % 2 ^ 64) % p else (a * b % 2 ^ 128) % p

/-- The 256-bit product of two 128-bit operands from four 64×64 partial products, as (high, low) 128-bit halves
(R145). -/
def wideProduct (a b : Nat) : Nat × Nat :=
  let aH := a / 2 ^ 64
  let aL := a % 2 ^ 64
  let bH := b / 2 ^ 64
  let bL := b % 2 ^ 64
  let p0 := aL * bL
  let p1 := aL * bH
  let p2 := aH * bL
  let p3 := aH * bH
  let mid := p1 + p2
  let c1 := mid / 2 ^ 128
  let midLow := mid % 2 ^ 128
  let t := p0 + (midLow % 2 ^ 64) * 2 ^ 64
  let c2 := t / 2 ^ 128
  let lo := t % 2 ^ 128
  (p3 + midLow / 2 ^ 64 + c1 * 2 ^ 64 + c2, lo)

/-- Reduction of a 256-bit value modulo p: 128 doublings of the high half, then the low half (R145). -/
def reduceWide (p hi lo : Nat) : Nat :=
  let r := repeatStep (dbl p) 128 (hi % p)
  let s := r + lo % p
  if p ≤ s then s - p else s

/-- The 128-bit multiplier (R145): the native product where it fits 127 bits, else the 256-bit datapath. -/
def mulmodPath128 (p a b : Nat) : Nat :=
  if a * b ≤ 2 ^ 127 - 1 then (a * b % 2 ^ 128) % p else reduceWide p (wideProduct a b).1 (wideProduct a b).2

/-- mulmod_p of a command of width `w` (R148). -/
def mulmodP (w : Width) (p a b : Nat) : Nat :=
  match w with
  | .w64 => mulmodPath64 p a b
  | .w128 => mulmodPath128 p a b

/-- The modular sum of two residues (R147). -/
def addmodP (p a b : Nat) : Nat := if p ≤ a + b then a + b - p else a + b

end Sys2Proof.Machine
end

