-- ==== Sys2Proof/Machine/Flags.lean ====
section
/-! DEFINITION. STATUS, ERRCODE and the interrupt output (10_state.md R39 to R41, R48, R49, R52; 60_exceptions.md R250,
R262). -/

namespace Sys2Proof.Machine

/-- STATUS as the host reads it (R39): bits 63:6 are 0. -/
def statusWord (t : Status) : Word :=
  (0#58 ++ BitVec.ofBool t.ovr ++ BitVec.ofBool t.capped ++ BitVec.ofBool t.degraded ++ BitVec.ofBool t.err
    ++ BitVec.ofBool t.done ++ BitVec.ofBool t.busy : BitVec 64)

/-- A host write of `v` to STATUS (R40): bit 1 clears DONE, bit 5 clears OVR. -/
def statusAfterWrite (v : Word) (t : Status) : Status :=
  { t with done := t.done && !v.getLsbD 1, ovr := t.ovr && !v.getLsbD 5 }

/-- STATUS after an issue (R48). -/
def statusAfterIssue (t : Status) : Status :=
  { t with busy := true, done := false, err := false, degraded := false, capped := false }

/-- STATUS after a command write that is dropped (R48). -/
def statusAfterDrop (t : Status) : Status := { t with ovr := true }

/-- STATUS after a successful completion (R49). -/
def statusAfterSuccess (deg cap : Bool) (t : Status) : Status :=
  { t with degraded := deg, capped := cap, busy := false, done := true }

/-- STATUS after an error completion (R49). -/
def statusAfterError (deg cap : Bool) (t : Status) : Status :=
  { t with err := true, degraded := deg, capped := cap, busy := false, done := true }

/-- The code of an error (R250). -/
def errorByte : ErrorCode → BitVec 8
  | .illegalCommand => 1#8
  | .invalidOperand => 2#8
  | .evenModulus => 3#8
  | .operandRange => 4#8
  | .bitsetRange => 5#8
  | .memFault => 6#8
  | .exhausted => 7#8

/-- CTRL as the host reads it (R37). -/
def ctrlWord (ie : Bool) : Word := (0#63 ++ BitVec.ofBool ie : BitVec 64)

/-- ERRCODE as the host reads it (R41). -/
def errcodeWord (e : BitVec 8) : Word := (0#56 ++ e : BitVec 64)

/-- The IRQ output (R262). -/
def irq (s : State) : Bool := s.ie && s.status.done

/-- The level of the platform's interrupt input `line`, as far as this block drives it (R262). -/
def platformIrq (line : Nat) (s : State) : Bool := decide (line = Config.irqLine) && irq s

end Sys2Proof.Machine
end

