-- ==== Sys2Proof/Machine/Operands.lean ====
section
/-! DEFINITION. Operand values (30_encoding.md R119) and the checks each family makes on them, in their order
(40_widearith.md R140, 41_modpow.md R160, 42_dlog.md R180, 20_memory.md R85, 60_exceptions.md R260). -/

namespace Sys2Proof.Machine

/-- opnd_W of a latched register (R119): its low W bits as a signed integer. -/
def opnd (w : Width) (x : Wide) : Int :=
  match w with
  | .w64 => (x.setWidth 64).toInt
  | .w128 => x.toInt

/-- The checks of MULMOD and ADDMOD (R140). -/
def mulCheck (p a b : Int) : Option ErrorCode :=
  if p ≤ 0 then some .invalidOperand
  else if ¬ (0 ≤ a ∧ a < p) ∨ ¬ (0 ≤ b ∧ b < p) then some .operandRange
  else none

/-- The checks of POW2F and POW2L (R160). -/
def powCheck (p k : Int) : Option ErrorCode :=
  if p ≤ 0 then some .invalidOperand
  else if k < 0 then some .operandRange
  else none

/-- The checks of POW2B (R160): an even modulus is refused before the exponent is looked at. -/
def powBackCheck (p k : Int) : Option ErrorCode :=
  if p ≤ 0 then some .invalidOperand
  else if p % 2 = 0 then some .evenModulus
  else if k < 0 then some .operandRange
  else none

/-- The checks of POWL (R160). -/
def powBaseCheck (p k b : Int) : Option ErrorCode :=
  if p ≤ 0 then some .invalidOperand
  else if k < 0 then some .operandRange
  else if b < 0 then some .operandRange
  else none

/-- The checks of the DLOG commands (R180). -/
def dlogCheck (p : Int) : Option ErrorCode :=
  if p ≤ 0 then some .invalidOperand
  else if p % 2 = 0 then some .evenModulus
  else none

/-- The number of bytes of the bitset region: BSLEN bits, eight to a byte (R85). -/
def regionBytes (l : Latches) : Nat := (l.bsLen.toNat + 7) / 8

/-- The bitset region ends at or below 2^64 (R85). -/
def regionOk (l : Latches) : Bool := decide (l.bsBase.toNat + regionBytes l ≤ 2 ^ 64)

/-- The checks of ISPRIME_C (R225). -/
def lookupCheck (l : Latches) (n : Int) : Option ErrorCode :=
  if regionOk l = false then some .bitsetRange
  else if n < 0 ∨ (l.bsLen.toNat : Int) ≤ n then some .bitsetRange
  else none

/-- The checks of NEXTPRIME_C (R227). -/
def scanCheck (l : Latches) (n lim : Int) : Option ErrorCode :=
  if regionOk l = false then some .bitsetRange
  else if n < 0 ∨ (l.bsLen.toNat : Int) < lim then some .bitsetRange
  else none

end Sys2Proof.Machine
end

