-- ==== Sys2Proof/Machine/Ops.lean ====
section
/-! DEFINITION. The shared operations over registers and memory, issue, completion (the block's only trap-like event,
60_exceptions.md R261) and reset. -/

namespace Sys2Proof.Machine

/-! ### System memory (20_memory.md R81 to R84, R88, R92) -/

/-- The byte listed at an address. -/
def memLookup : List Host.Cell → Nat → Option Byte
  | [], _ => none
  | c :: cs, a => if c.1 = a then some c.2 else memLookup cs a

/-- The list with the byte at an address set, its addresses still strictly rising. -/
def memInsert : List Host.Cell → Nat → Byte → List Host.Cell
  | [], a, b => [(a, b)]
  | c :: cs, a, b =>
    if a < c.1 then (a, b) :: c :: cs
    else if a = c.1 then (a, b) :: cs
    else c :: memInsert cs a b

/-- Every address of the list lies above `lo` and below 2^64, and they rise strictly. -/
def memSorted (lo : Int) : List Host.Cell → Bool
  | [] => true
  | c :: cs => decide (lo < (c.1 : Int)) && decide (c.1 < 2 ^ 64) && memSorted c.1 cs

/-- The canonical form of system memory: strictly rising 64-bit addresses. An unlisted address reads as an uninterpreted
value, with which no evaluation can compare an entry (log 2). -/
def memWf (m : List Host.Cell) : Bool := memSorted (-1) m

/-- The byte system memory holds at an address: the one stored there, else the unwritten one (R82, log 2). -/
def byteAt (m : List Host.Cell) (a : Nat) : Byte :=
  match memLookup m a with
  | some b => b
  | none => Config.unwrittenByte a

/-- The address lies in one of the ranges. -/
def inRanges (rs : List MemRange) (a : Nat) : Bool := rs.any fun r => decide (r.base ≤ a ∧ a < r.base + r.size)

/-- The byte at an address of readable memory, where the running command reads what memory holds: memory there is
idempotent (R88) and no other agent has stored to it since the issue (R92). -/
def stableByte (s : State) (a : Nat) : Option Byte :=
  if inRanges s.volatile a || s.touched.contains a then none else some (byteAt s.mem a)

/-- The read of address `a` is on the bus (R90, R91). -/
def logRead (a : Nat) (s : State) : State := { s with reads := s.reads ++ [a] }

/-- MemRead(a, 1) (R82): none is a bus error; an unspecified byte is a free value (R88, R92). Which addresses give a bus
error is MEM_READABLE's to say, for the block's own window too (DESIGN CHOICE, log 3). -/
def memRead (a : Nat) (s : State) : Option Byte × State :=
  if inRanges s.readable a then
    match stableByte s a with
    | some b => (some b, logRead a s)
    | none => (some (Config.freeByte s.draws), { logRead a s with draws := s.draws + 1 })
  else (none, logRead a s)

/-- The address of the byte that holds bit `i` of the bitset (R83, R84). -/
def bitAddress (l : Latches) (i : Nat) : Nat := (l.bsBase.toNat + i / 8) % 2 ^ 64

/-- Bit `i mod 8` of a byte, least significant first (R83). -/
def bitOfByte (b : Byte) (i : Nat) : Nat := b.toNat / 2 ^ (i % 8) % 2

/-- The addresses that other agents store to before the running command completes or is abandoned (R92), from the
events still to come. -/
def storesToCome : List Event → List Nat
  | [] => []
  | .memStore a _ :: es => a.toNat :: storesToCome es
  | .completion :: _ => []
  | .reset :: _ => []
  | .blockRead :: es => storesToCome es
  | .hostRead _ _ :: es => storesToCome es
  | .hostWrite _ _ _ :: es => storesToCome es

/-- A read of address `a` as an event of its own (R90, R91). R92 leaves the byte unspecified if another agent stores it
at any time up to the completion, so a store still to come counts as well as one made (log 13). -/
def fetchByte (a : Nat) (s : State) : State :=
  let r := memRead a { s with touched := storesToCome s.inputs ++ s.touched }
  { r.2 with touched := s.touched, bytesRead := s.bytesRead ++ [r.1] }

/-- The answer to the run's next read, of address `a` (R84): the one already on hand, else that of a read made now. -/
def nextByte (a : Nat) (s : State) : Option Byte × State :=
  match s.bytesRead with
  | x :: xs => (x, { s with bytesRead := xs })
  | [] => memRead a s

/-- Some byte of the bitset region lies in memory whose reads are not idempotent (R85, R88). -/
def bitsetVolatile (s : State) : Bool :=
  s.volatile.any fun r => decide (max r.base s.latch.bsBase.toNat <
    min (r.base + r.size) (s.latch.bsBase.toNat + regionBytes s.latch))

/-- get_bit(i) (R84): none is a bus error. -/
def getBit (i : Nat) (s : State) : Option Nat × State :=
  match nextByte (bitAddress s.latch i) s with
  | (some b, t) => (some (bitOfByte b i), t)
  | (none, t) => (none, t)

/-- The addresses stored to since the issue, with one more (R92). -/
def touch (a : Nat) (ts : List Nat) : List Nat := if ts.contains a then ts else a :: ts

/-- Another bus agent stores a byte (R92). Memory that is not readable, or whose reads are not idempotent, shows
nothing of it (log 13). -/
def memStore (a : Addr) (b : Byte) (s : State) : State :=
  { s with
    mem := if inRanges s.readable a.toNat && !inRanges s.volatile a.toNat then memInsert s.mem a.toNat b else s.mem
    touched := if s.status.busy then touch a.toNat s.touched else s.touched }

/-! ### Registers of the window (10_state.md R30 to R45) -/

/-- The register at an 8-byte-aligned offset; none for a reserved offset (R33, R34). -/
def regAt (o : Offset) : Option Reg :=
  match o.toNat with
  | 0x000 => some .id
  | 0x008 => some .ctrl
  | 0x010 => some .cmd
  | 0x018 => some .status
  | 0x020 => some .errcode
  | 0x028 => some .tblBudget
  | 0x030 => some .bsBase
  | 0x038 => some .bsLen
  | 0x040 => some .pLo
  | 0x048 => some .pHi
  | 0x050 => some .aLo
  | 0x058 => some .aHi
  | 0x060 => some .bLo
  | 0x068 => some .bHi
  | 0x070 => some .rLo
  | 0x078 => some .rHi
  | _ => none

/-- The offset of a register (R33). -/
def offsetOf : Reg → Offset
  | .id => 0x000#12
  | .ctrl => 0x008#12
  | .cmd => 0x010#12
  | .status => 0x018#12
  | .errcode => 0x020#12
  | .tblBudget => 0x028#12
  | .bsBase => 0x030#12
  | .bsLen => 0x038#12
  | .pLo => 0x040#12
  | .pHi => 0x048#12
  | .aLo => 0x050#12
  | .aHi => 0x058#12
  | .bLo => 0x060#12
  | .bHi => 0x068#12
  | .rLo => 0x070#12
  | .rHi => 0x078#12

/-- P, A or B as a 128-bit value (R10, R45). -/
def operandValue (s : State) : OperandReg → Wide
  | .p => s.pHi ++ s.pLo
  | .a => s.aHi ++ s.aLo
  | .b => s.bHi ++ s.bLo

/-- R as a 128-bit value (R45). -/
def resultValue (s : State) : Wide := s.rHi ++ s.rLo

/-- What a read of a register returns (R33 to R45): ID is hard-wired, CMD reads 0. -/
def readReg (r : Reg) (s : State) : Word :=
  match r with
  | .id => Config.idWord
  | .ctrl => ctrlWord s.ie
  | .cmd => 0
  | .status => statusWord s.status
  | .errcode => errcodeWord s.errcode
  | .tblBudget => s.tblBudget
  | .bsBase => s.bsBase
  | .bsLen => s.bsLen
  | .pLo => s.pLo
  | .pHi => s.pHi
  | .aLo => s.aLo
  | .aHi => s.aHi
  | .bLo => s.bLo
  | .bHi => s.bHi
  | .rLo => s.rLo
  | .rHi => s.rHi

/-- The legal budget nearest to a written value (R42). -/
def legalBudget (v : Word) : Word := BitVec.ofNat 64 (min (max v.toNat Config.budgetFloor) Config.tableBytes)

/-- The issue of command word `c` when the block is idle (R48, the second branch): latch everything, set BUSY. -/
def latchCommand (c : Word) (s : State) : State :=
  { s with
    latch := { cmd := c, p := operandValue s .p, a := operandValue s .a, b := operandValue s .b,
               budget := s.tblBudget, bsBase := s.bsBase, bsLen := s.bsLen }
    status := statusAfterIssue s.status
    errcode := 0
    touched := []
    bytesRead := [] }

/-- A command write (R38, R48): dropped while BUSY. -/
def issue (c : Word) (s : State) : State :=
  if s.status.busy then { s with status := statusAfterDrop s.status } else latchCommand c s

/-- A write to a register (R33 to R45): RO registers ignore it. -/
def writeReg (r : Reg) (v : Word) (s : State) : State :=
  match r with
  | .id => s
  | .ctrl => { s with ie := v.getLsbD 0 }
  | .cmd => issue v s
  | .status => { s with status := statusAfterWrite v s.status }
  | .errcode => s
  | .tblBudget => { s with tblBudget := legalBudget v }
  | .bsBase => { s with bsBase := v }
  | .bsLen => { s with bsLen := v }
  | .pLo => { s with pLo := v }
  | .pHi => { s with pHi := v }
  | .aLo => { s with aLo := v }
  | .aHi => { s with aHi := v }
  | .bLo => { s with bLo := v }
  | .bHi => { s with bHi := v }
  | .rLo => s
  | .rHi => s

/-- The block accepts an access: 8 bytes at a multiple of 8 (R31). -/
def accepted (width : Nat) (o : Offset) : Bool := decide (width = 8 ∧ o.toNat % 8 = 0)

/-- The block's answer stands on the bus. -/
def respond (r : Response) (s : State) : State := { s with responses := s.responses ++ [r] }

/-- What an accepted read of an offset returns (R33, R34). -/
def windowRead (o : Offset) (s : State) : Word :=
  match regAt o with
  | some r => readReg r s
  | none => 0

/-- An accepted write to an offset (R33, R34). -/
def windowWrite (o : Offset) (v : Word) (s : State) : State :=
  match regAt o with
  | some r => writeReg r v s
  | none => s

/-- A host read (R31, R88): no side effect but the answer. -/
def hostRead (width : Nat) (o : Offset) (s : State) : State :=
  if accepted width o then respond (.data (windowRead o s)) s else respond .busError s

/-- A host write (R31). -/
def hostWrite (width : Nat) (o : Offset) (v : Word) (s : State) : State :=
  if accepted width o then respond .ack (windowWrite o v s) else respond .busError s

/-- The platform address of an offset of the window (R30). -/
def windowAddress (o : Offset) : Addr := Config.blockBase + o.setWidth 64

/-- The offset that a platform address has in the window; none outside it (R30, R89). -/
def windowOffset (a : Addr) : Option Offset :=
  if a.extractLsb' 12 52 = Config.blockPage then some (a.extractLsb' 0 12) else none

/-! ### Reset (70_reset_and_hazards.md R280, R281) -/

/-- Reset: every register of the block takes its reset value and a running command is abandoned. System memory, the
platform's parameters, the events still to come and what has been on the bus are not the block's. -/
def resetBlock (s : State) : State :=
  { State.reset with
    mem := s.mem
    readable := s.readable
    volatile := s.volatile
    inputs := s.inputs
    responses := s.responses
    reads := s.reads
    draws := s.draws }

/-! ### Completion (10_state.md R49; 60_exceptions.md R255, R256, R261) -/

/-- How a command ends (R255, R256), with the deg and cap of R190. -/
inductive Completion where
  | success (r : Nat) (deg cap : Bool)
  | error (e : ErrorCode) (deg cap : Bool)
deriving DecidableEq, Repr

/-- The run of a command: how it ends, the working values and the table it leaves (R61, R62). -/
structure Run where
  ending : Completion
  work   : Work
  table  : List TableEntry
deriving DecidableEq, Repr

/-- No working value survives a completion, and the table is discarded (R61, R62, R63). -/
def endRun (s : State) : State := { s with work := none, table := [], touched := [], bytesRead := [] }

/-- A successful completion with result `r` (R49, R255). -/
def completeSuccess (w : Width) (r : Nat) (deg cap : Bool) (s : State) : State :=
  { endRun s with
    rLo := BitVec.ofNat 64 (r % 2 ^ 64)
    rHi := match w with | .w64 => 0#64 | .w128 => BitVec.ofNat 64 (r / 2 ^ 64)
    status := statusAfterSuccess deg cap s.status }

/-- TAKING AN EXCEPTION: an error completion with code `e` (R49, R256, R261). R is left alone. -/
def completeError (e : ErrorCode) (deg cap : Bool) (s : State) : State :=
  { endRun s with
    errcode := errorByte e
    status := statusAfterError deg cap s.status }

/-- The working values and the table entries of a run stand in the block (R61, R62). -/
def holdRun (x : Run) (s : State) : State := { s with work := some x.work, table := x.table }

/-- The completion event of a run (R49). -/
def finish (w : Width) (x : Run) (s : State) : State :=
  match x.ending with
  | .success r deg cap => completeSuccess w r deg cap (holdRun x s)
  | .error e deg cap => completeError e deg cap (holdRun x s)

/-- Working values before a rule sets any. -/
def noWork : Work := { v := 0, r := 0, y := 0, am := 0, s := 0, i := 0, j := 0, m := 0 }

/-- raise Error(e) outside the BSGS procedure (R14, R256): deg and cap are 0. -/
def raiseError (e : ErrorCode) : Run := { ending := .error e false false, work := noWork, table := [] }

/-- return r outside the BSGS procedure (R14, R255). -/
def returnValue (r : Nat) (x : Work) : Run := { ending := .success r false false, work := x, table := [] }

/-- The successful end of a cached command with result `r`. For a bitset in memory whose reads are not idempotent the
result is unspecified (R88, U8): any value that R120 allows (log 18). -/
def returnFromBitset (w : Width) (r : Nat) (x : Work) (s : State) : Run × State :=
  if bitsetVolatile s then
    (returnValue ((Config.freeResult s.draws).toNat % 2 ^ (bitsOf w - 1)) x, { s with draws := s.draws + 1 })
  else (returnValue r x, s)

/-- The word the block decodes: the latched command word (R117). -/
def fetchedWord (s : State) : Word := s.latch.cmd

end Sys2Proof.Machine
end

