-- ==== Sys2Proof/Machine/ModPow.lean ====
section
/-! DEFINITION. The modular exponentiation engine: POW2F, POW2B, POW2L, POWL (41_modpow.md). -/

namespace Sys2Proof.Machine

/-- The value of POW2F: k doublings of 1 mod p (R161). -/
def powForward (p k : Nat) : Nat := repeatStep (dbl p) k (1 % p)

/-- The value of POW2B: k halvings of 1 mod p (R162). -/
def powBackward (p k : Nat) : Nat := repeatStep (hlv p) k (1 % p)

/-- The loop of square-and-multiply (R163, R164): the bits of `e`, least significant first, the base squared every time.
The first argument bounds the number of iterations; it exceeds the bit length of every exponent (log 14). -/
def squareMultiply (w : Width) (p : Nat) : Nat → Nat → Nat → Nat → Nat
  | 0, r, _, _ => r
  | n + 1, r, x, e =>
    if e = 0 then r
    else squareMultiply w p n (if e % 2 = 1 then mulmodP w p r x else r) (mulmodP w p x x) (e / 2)

/-- The value of POWL, and of POW2L with base 2 (R163, R164). -/
def powLog (w : Width) (p b k : Nat) : Nat := squareMultiply w p (bitsOf w) (1 % p) (b % p) k

/-- POW2F (R161). -/
def runPow2f (w : Width) (l : Latches) : Run :=
  match powCheck (opnd w l.p) (opnd w l.a) with
  | some e => raiseError e
  | none =>
    let x := { noWork with
      v := powForward (opnd w l.p).toNat (opnd w l.a).toNat
      s := (opnd w l.a).toNat }
    returnValue x.v x

/-- POW2B (R162). -/
def runPow2b (w : Width) (l : Latches) : Run :=
  match powBackCheck (opnd w l.p) (opnd w l.a) with
  | some e => raiseError e
  | none =>
    let x := { noWork with
      v := powBackward (opnd w l.p).toNat (opnd w l.a).toNat
      s := (opnd w l.a).toNat }
    returnValue x.v x

/-- POW2L (R163). -/
def runPow2l (w : Width) (l : Latches) : Run :=
  match powCheck (opnd w l.p) (opnd w l.a) with
  | some e => raiseError e
  | none =>
    let x := { noWork with r := powLog w (opnd w l.p).toNat 2 (opnd w l.a).toNat }
    returnValue x.r x

/-- POWL (R164). -/
def runPowl (w : Width) (l : Latches) : Run :=
  match powBaseCheck (opnd w l.p) (opnd w l.a) (opnd w l.b) with
  | some e => raiseError e
  | none =>
    let x := { noWork with r := powLog w (opnd w l.p).toNat (opnd w l.b).toNat (opnd w l.a).toNat }
    returnValue x.r x

/-- POW2F.64 (R161). -/
def execPow2f64 (s : State) : Host.Outcome State Fault Refusal := .next (finish .w64 (runPow2f .w64 s.latch) s)

/-- POW2F.128 (R161). -/
def execPow2f128 (s : State) : Host.Outcome State Fault Refusal := .next (finish .w128 (runPow2f .w128 s.latch) s)

/-- POW2B.64 (R162). -/
def execPow2b64 (s : State) : Host.Outcome State Fault Refusal := .next (finish .w64 (runPow2b .w64 s.latch) s)

/-- POW2B.128 (R162). -/
def execPow2b128 (s : State) : Host.Outcome State Fault Refusal := .next (finish .w128 (runPow2b .w128 s.latch) s)

/-- POW2L.64 (R163). -/
def execPow2l64 (s : State) : Host.Outcome State Fault Refusal := .next (finish .w64 (runPow2l .w64 s.latch) s)

/-- POW2L.128 (R163). -/
def execPow2l128 (s : State) : Host.Outcome State Fault Refusal := .next (finish .w128 (runPow2l .w128 s.latch) s)

/-- POWL.64 (R164). -/
def execPowl64 (s : State) : Host.Outcome State Fault Refusal := .next (finish .w64 (runPowl .w64 s.latch) s)

/-- POWL.128 (R164). -/
def execPowl128 (s : State) : Host.Outcome State Fault Refusal := .next (finish .w128 (runPowl .w128 s.latch) s)

end Sys2Proof.Machine
end

