-- ==== Sys2Proof/Machine/DiscreteLog.lean ====
section
/-! DEFINITION. The discrete-logarithm solver (42_dlog.md): linear stepping, baby-step-giant-step, and their bounded
forms. -/

namespace Sys2Proof.Machine

/-! ### Linear stepping (R183 to R186) -/

/-- The unbounded loop of R183 and R184 after `s` steps, with value `v`: the number of the first step that gives `one`.
The first argument is the number of steps still allowed; R181 bounds them (log 14). -/
def stepUntil (f : Nat → Nat) (one : Nat) : Nat → Nat → Nat → Nat
  | 0, s, _ => s
  | n + 1, s, v => if f v = one then s + 1 else stepUntil f one n (s + 1) (f v)

/-- The most steps the unbounded loop can need (R181). -/
def orderBound (p : Nat) : Nat := max 1 (p - 1)

/-- Linear search for the least s ≥ 1 with `f` applied s times to 1 mod p giving 1 mod p (R183, R184). -/
def linearOrder (f : Nat → Nat) (p : Nat) : Nat := stepUntil f (1 % p) (orderBound p) 0 (1 % p)

/-- The bounded loop of R185 at step `s` with value `v` and `n` steps to go: 0 when it runs out. -/
def stepWithin (f : Nat → Nat) (one : Nat) : Nat → Nat → Nat → Nat
  | 0, _, _ => 0
  | n + 1, s, v => if f v = one then s else stepWithin f one n (s + 1) (f v)

/-- The bounded linear search with limit `lim`: steps 1 to lim − 1 (R185, R186). -/
def linearWithin (f : Nat → Nat) (p : Nat) (lim : Int) : Nat := stepWithin f (1 % p) (lim - 1).toNat 1 (1 % p)

/-! ### Baby-step-giant-step (R190 to R197) -/

/-- Bytes of a table entry (R191). -/
def entryBytes : Width → Nat
  | .w64 => 16
  | .w128 => 32

/-- The uncapped step size m0 (R191). -/
def wantedStep (p : Nat) : Nat := ceildiv (csqrt p) 3

/-- The number of entries the budget allows (R191). -/
def allowedStep (w : Width) (budget : Nat) : Nat := budget / entryBytes w

/-- cap (R191). -/
def stepCapped (w : Width) (p budget : Nat) : Bool := decide (allowedStep w budget < wantedStep p)

/-- The step size m (R191). -/
def stepSize (w : Width) (p budget : Nat) : Nat := min (wantedStep p) (allowedStep w budget)

/-- The baby steps from index `j` with value `v` (R192): the candidate of a hit, and the table written so far. -/
def babySteps (p : Nat) : Nat → Nat → Nat → List TableEntry → Option Nat × List TableEntry
  | 0, _, _, t => (none, t)
  | n + 1, j, v, t =>
    if dbl p v = 1 % p then (some (j + 1), ⟨v, j⟩ :: t) else babySteps p n (j + 1) (dbl p v) (⟨v, j⟩ :: t)

/-- The index of the table entry that holds a value (R195). -/
def tableIndex : List TableEntry → Nat → Option Nat
  | [], _ => none
  | e :: t, y => if e.value = y then some e.index else tableIndex t y

/-- NATIVE, the largest signed W-bit value (R194). -/
def nativeMax (w : Width) : Nat := 2 ^ (bitsOf w - 1) - 1

/-- deg, the overflow check (R194). -/
def overflows (w : Width) (p am : Nat) : Bool := decide (nativeMax w < am * (p - 1))

/-- How the giant steps end (R195). -/
inductive GiantEnd where
  /-- y at step i is the table's entry j -/
  | hit (i j y : Nat)
  /-- the bounded form reached its limit -/
  | stopped
  /-- no match in any step -/
  | exhausted
deriving DecidableEq, Repr

/-- i·m has reached the limit of the bounded form (R195). -/
def reachedLimit (bound : Option Int) (x : Nat) : Bool :=
  match bound with
  | none => false
  | some lim => decide (lim ≤ (x : Int))

/-- The giant steps from step `i`, `n` of them to go, with value `y` before the step (R195). -/
def giantSteps (w : Width) (p am m : Nat) (bound : Option Int) (t : List TableEntry) : Nat → Nat → Nat → GiantEnd
  | 0, _, _ => .exhausted
  | n + 1, i, y =>
    if reachedLimit bound (i * m) then .stopped
    else
      match tableIndex t (mulmodP w p y am) with
      | some j => .hit i j (mulmodP w p y am)
      | none => giantSteps w p am m bound t n (i + 1) (mulmodP w p y am)

/-- The result of a candidate: filtered by the limit in the bounded form (R196, R197). -/
def candidateResult (bound : Option Int) (x : Nat) : Nat :=
  match bound with
  | none => x
  | some lim => if (x : Int) < lim then x else 0

/-- The result of the W = 128 fallback: the linear algorithm with the same limit (R194, R196, R197). -/
def fallbackResult (p : Nat) (bound : Option Int) : Nat :=
  match bound with
  | none => linearOrder (hlv p) p
  | some lim => linearWithin (hlv p) p lim

/-- Exhaustion: an error in the unbounded form, the sentinel 0 in the bounded one (R196, R197, R259). -/
def exhaustedEnding (bound : Option Int) (deg cap : Bool) : Completion :=
  match bound with
  | none => .error .exhausted deg cap
  | some _ => .success 0 deg cap

/-- The procedure after baby steps without a hit (R193 to R195), with the table they wrote. -/
def giantPhase (w : Width) (p m : Nat) (cap : Bool) (bound : Option Int) (t : List TableEntry) : Run :=
  let am := powBackward p m
  let deg := overflows w p am
  let x := { noWork with am := am, m := m }
  if deg = true ∧ w = .w128 then
    { ending := .success (fallbackResult p bound) deg cap, work := { x with s := fallbackResult p bound }, table := t }
  else
    match giantSteps w p x.am x.m bound t (ceildiv p x.m) 1 (1 % p) with
    | .hit i j y =>
      { ending := .success (candidateResult bound (i * m + j)) deg cap
        work := { x with i := i, j := j, y := y }, table := t }
    | .stopped => { ending := .success 0 deg cap, work := x, table := t }
    | .exhausted => { ending := exhaustedEnding bound deg cap, work := x, table := t }

/-- The BSGS procedure for an odd modulus (R191 to R195), bounded or not. -/
def bsgs (w : Width) (p budget : Nat) (bound : Option Int) : Run :=
  let m := stepSize w p budget
  let cap := stepCapped w p budget
  match babySteps p m 0 (1 % p) [] with
  | (some x, t) =>
    { ending := .success (candidateResult bound x) false cap, work := { noWork with m := m, j := x - 1 }, table := t }
  | (none, t) => giantPhase w p m cap bound t

/-! ### The commands -/

/-- DLOG_MN (R183). -/
def runDlogMn (w : Width) (l : Latches) : Run :=
  match dlogCheck (opnd w l.p) with
  | some e => raiseError e
  | none =>
    let p := (opnd w l.p).toNat
    let x := { noWork with s := linearOrder (hlv p) p, v := 1 % p }
    returnValue x.s x

/-- DLOG_PL (R184). -/
def runDlogPl (w : Width) (l : Latches) : Run :=
  match dlogCheck (opnd w l.p) with
  | some e => raiseError e
  | none =>
    let p := (opnd w l.p).toNat
    let x := { noWork with s := linearOrder (dbl p) p, v := 1 % p }
    returnValue x.s x

/-- DLOG_MN_LIM (R185). -/
def runDlogMnLim (w : Width) (l : Latches) : Run :=
  match dlogCheck (opnd w l.p) with
  | some e => raiseError e
  | none =>
    let p := (opnd w l.p).toNat
    let x := { noWork with s := linearWithin (hlv p) p (opnd w l.a) }
    returnValue x.s x

/-- DLOG_PL_LIM (R186). -/
def runDlogPlLim (w : Width) (l : Latches) : Run :=
  match dlogCheck (opnd w l.p) with
  | some e => raiseError e
  | none =>
    let p := (opnd w l.p).toNat
    let x := { noWork with s := linearWithin (dbl p) p (opnd w l.a) }
    returnValue x.s x

/-- DLOG_BG (R196). -/
def runDlogBg (w : Width) (l : Latches) : Run :=
  match dlogCheck (opnd w l.p) with
  | some e => raiseError e
  | none => bsgs w (opnd w l.p).toNat l.budget.toNat none

/-- DLOG_BG_LIM (R197). -/
def runDlogBgLim (w : Width) (l : Latches) : Run :=
  match dlogCheck (opnd w l.p) with
  | some e => raiseError e
  | none => bsgs w (opnd w l.p).toNat l.budget.toNat (some (opnd w l.a))

/-- DLOG_MN.64 (R183). -/
def execDlogMn64 (s : State) : Host.Outcome State Fault Refusal := .next (finish .w64 (runDlogMn .w64 s.latch) s)

/-- DLOG_MN.128 (R183). -/
def execDlogMn128 (s : State) : Host.Outcome State Fault Refusal := .next (finish .w128 (runDlogMn .w128 s.latch) s)

/-- DLOG_PL.64 (R184). -/
def execDlogPl64 (s : State) : Host.Outcome State Fault Refusal := .next (finish .w64 (runDlogPl .w64 s.latch) s)

/-- DLOG_PL.128 (R184). -/
def execDlogPl128 (s : State) : Host.Outcome State Fault Refusal := .next (finish .w128 (runDlogPl .w128 s.latch) s)

/-- DLOG_BG.64 (R196). -/
def execDlogBg64 (s : State) : Host.Outcome State Fault Refusal := .next (finish .w64 (runDlogBg .w64 s.latch) s)

/-- DLOG_BG.128 (R196). -/
def execDlogBg128 (s : State) : Host.Outcome State Fault Refusal := .next (finish .w128 (runDlogBg .w128 s.latch) s)

/-- DLOG_MN_LIM.64 (R185). -/
def execDlogMnLim64 (s : State) : Host.Outcome State Fault Refusal := .next (finish .w64 (runDlogMnLim .w64 s.latch) s)

/-- DLOG_MN_LIM.128 (R185). -/
def execDlogMnLim128 (s : State) : Host.Outcome State Fault Refusal :=
  .next (finish .w128 (runDlogMnLim .w128 s.latch) s)

/-- DLOG_PL_LIM.64 (R186). -/
def execDlogPlLim64 (s : State) : Host.Outcome State Fault Refusal := .next (finish .w64 (runDlogPlLim .w64 s.latch) s)

/-- DLOG_PL_LIM.128 (R186). -/
def execDlogPlLim128 (s : State) : Host.Outcome State Fault Refusal :=
  .next (finish .w128 (runDlogPlLim .w128 s.latch) s)

/-- DLOG_BG_LIM.64 (R197). -/
def execDlogBgLim64 (s : State) : Host.Outcome State Fault Refusal := .next (finish .w64 (runDlogBgLim .w64 s.latch) s)

/-- DLOG_BG_LIM.128 (R197). -/
def execDlogBgLim128 (s : State) : Host.Outcome State Fault Refusal :=
  .next (finish .w128 (runDlogBgLim .w128 s.latch) s)

end Sys2Proof.Machine
end

