-- ==== Sys2Proof/Machine/Primality.lean ====
section
/-! DEFINITION. The primality tester (43_primality.md): trial division and lookups in the composite bitset. -/

namespace Sys2Proof.Machine

/-! ### Trial division (R221 to R223) -/

/-- The scan of the candidates from `d`, in steps of `stride`, up to `s`: no candidate divides n. The first argument
bounds the number of steps; `s` of them reach past `s` (log 14). -/
def noDivisor (candidate : Nat → Bool) (stride n s : Nat) : Nat → Nat → Bool
  | 0, _ => true
  | k + 1, d =>
    if d ≤ s then
      if candidate d = true ∧ n % d = 0 then false else noDivisor candidate stride n s k (d + stride)
    else true

/-- ISPRIME's test of n (R221): 3, 5, 7, ... -/
def primePlain (n : Nat) : Bool :=
  if n < 2 then false
  else if n = 2 then true
  else if n % 2 = 0 then false
  else noDivisor (fun _ => true) 2 n (isqrt n) (isqrt n) 3

/-- The candidates of wheel 6 (R222). -/
def wheel6 (d : Nat) : Bool := [1, 5].contains (d % 6)

/-- ISPRIME_W6's test of n (R222). -/
def primeWheel6 (n : Nat) : Bool :=
  if n < 2 then false
  else if n = 2 ∨ n = 3 then true
  else if n % 2 = 0 ∨ n % 3 = 0 then false
  else noDivisor wheel6 1 n (isqrt n) (isqrt n) 5

/-- The candidates of wheel 30 (R223). -/
def wheel30 (d : Nat) : Bool := [1, 7, 11, 13, 17, 19, 23, 29].contains (d % 30)

/-- ISPRIME_W30's test of n (R223). -/
def primeWheel30 (n : Nat) : Bool :=
  if n < 2 then false
  else if n = 2 ∨ n = 3 ∨ n = 5 then true
  else if n % 2 = 0 ∨ n % 3 = 0 ∨ n % 5 = 0 then false
  else noDivisor wheel30 1 n (isqrt n) (isqrt n) 7

/-- The run of a trial-division command with test `f` on the signed number n (R220): a negative n is below 2. -/
def runTrial (f : Nat → Bool) (n : Int) : Run :=
  returnValue (f n.toNat).toNat { noWork with s := isqrt n.toNat }

/-! ### Bitset lookup (R225 to R227) -/

/-- ISPRIME_C (R225). -/
def runIsprimeC (w : Width) (s : State) : Run × State :=
  match lookupCheck s.latch (opnd w s.latch.p) with
  | some e => (raiseError e, s)
  | none =>
    match getBit (opnd w s.latch.p).toNat s with
    | (some b, t) => returnFromBitset w (1 - b) { noWork with i := (opnd w s.latch.p).toNat } t
    | (none, t) => (raiseError .memFault, t)

/-- How a scan of the bitset ends (R227). -/
inductive ScanEnd where
  /-- the first index with a clear bit -/
  | found (i : Nat)
  /-- no clear bit below the limit -/
  | none
  /-- a byte read returned a bus error -/
  | busError
deriving DecidableEq, Repr

/-- The scan from index `i`, with the first argument of indices to go (R227). -/
def scanBits : Nat → Nat → State → ScanEnd × State
  | 0, _, s => (.none, s)
  | n + 1, i, s =>
    match getBit i s with
    | (some b, t) => if b = 0 then (.found i, t) else scanBits n (i + 1) t
    | (Option.none, t) => (.busError, t)

/-- NEXTPRIME_C (R227): the indices n + 1 to lim − 1, rising. -/
def runNextprimeC (w : Width) (s : State) : Run × State :=
  match scanCheck s.latch (opnd w s.latch.p) (opnd w s.latch.a) with
  | some e => (raiseError e, s)
  | none =>
    match scanBits (opnd w s.latch.a - (opnd w s.latch.p + 1)).toNat ((opnd w s.latch.p).toNat + 1) s with
    | (.found i, t) => returnFromBitset w i { noWork with i := i } t
    | (.none, t) => returnFromBitset w 0 noWork t
    | (.busError, t) => (raiseError .memFault, t)

/-! ### Reads as events of their own (20_memory.md R90, R91) -/

/-- The bits of the bitset that a command may read: their number, and the first one (R225, R227). Only the two cached
commands read any, and these none where their checks fail. -/
def bitsToRead (i : Instr) (l : Latches) : Nat × Nat :=
  match i with
  | .isprimeC64 | .isprimeC128 =>
    match lookupCheck l (opnd (widthOf i) l.p) with
    | some _ => (0, 0)
    | none => (1, (opnd (widthOf i) l.p).toNat)
  | .nextprimeC64 | .nextprimeC128 =>
    match scanCheck l (opnd (widthOf i) l.p) (opnd (widthOf i) l.a) with
    | some _ => (0, 0)
    | none => ((opnd (widthOf i) l.a - (opnd (widthOf i) l.p + 1)).toNat, (opnd (widthOf i) l.p).toNat + 1)
  | .mulmod64 | .mulmod128 | .addmod64 | .addmod128 | .pow2f64 | .pow2f128 | .pow2b64 | .pow2b128 | .pow2l64 | .pow2l128
  | .powl64 | .powl128 | .dlogMn64 | .dlogMn128 | .dlogPl64 | .dlogPl128 | .dlogBg64 | .dlogBg128 | .dlogMnLim64
  | .dlogMnLim128 | .dlogPlLim64 | .dlogPlLim128 | .dlogBgLim64 | .dlogBgLim128 | .isprime64 | .isprime128
  | .isprimeW6n64 | .isprimeW6n128 | .isprimeW30n64 | .isprimeW30n128 => (0, 0)

/-- The index of the next bit a scan reads, of `n` from index `i`, when the answers to its first reads are on hand: none
when they end it (R227). -/
def pendingIndex : Nat → Nat → List (Option Byte) → Option Nat
  | 0, _, _ => none
  | _ + 1, i, [] => some i
  | _ + 1, _, none :: _ => none
  | n + 1, i, some b :: xs => if bitOfByte b i = 0 then none else pendingIndex n (i + 1) xs

/-- The address that command `i` reads next; none when it has no read left (R91). -/
def pendingRead (i : Instr) (s : State) : Option Nat :=
  (pendingIndex (bitsToRead i s.latch).1 (bitsToRead i s.latch).2 s.bytesRead).map (bitAddress s.latch)

/-- The running command makes its next read, if it has one left (R90, R91). -/
def readAhead (s : State) : State :=
  match decode (fetchedWord s) with
  | .ok i =>
    match pendingRead i s with
    | some a => fetchByte a s
    | none => s
  | .error _ => s

/-! ### The commands -/

/-- ISPRIME.64 (R221). -/
def execIsprime64 (s : State) : Host.Outcome State Fault Refusal :=
  .next (finish .w64 (runTrial primePlain (opnd .w64 s.latch.p)) s)

/-- ISPRIME.128 (R221). -/
def execIsprime128 (s : State) : Host.Outcome State Fault Refusal :=
  .next (finish .w128 (runTrial primePlain (opnd .w128 s.latch.p)) s)

/-- ISPRIME_W6.64 (R222). -/
def execIsprimeW6n64 (s : State) : Host.Outcome State Fault Refusal :=
  .next (finish .w64 (runTrial primeWheel6 (opnd .w64 s.latch.p)) s)

/-- ISPRIME_W6.128 (R222). -/
def execIsprimeW6n128 (s : State) : Host.Outcome State Fault Refusal :=
  .next (finish .w128 (runTrial primeWheel6 (opnd .w128 s.latch.p)) s)

/-- ISPRIME_W30.64 (R223). -/
def execIsprimeW30n64 (s : State) : Host.Outcome State Fault Refusal :=
  .next (finish .w64 (runTrial primeWheel30 (opnd .w64 s.latch.p)) s)

/-- ISPRIME_W30.128 (R223). -/
def execIsprimeW30n128 (s : State) : Host.Outcome State Fault Refusal :=
  .next (finish .w128 (runTrial primeWheel30 (opnd .w128 s.latch.p)) s)

/-- ISPRIME_C.64 (R225). -/
def execIsprimeC64 (s : State) : Host.Outcome State Fault Refusal :=
  .next (finish .w64 (runIsprimeC .w64 s).1 (runIsprimeC .w64 s).2)

/-- ISPRIME_C.128 (R225). -/
def execIsprimeC128 (s : State) : Host.Outcome State Fault Refusal :=
  .next (finish .w128 (runIsprimeC .w128 s).1 (runIsprimeC .w128 s).2)

/-- NEXTPRIME_C.64 (R227). -/
def execNextprimeC64 (s : State) : Host.Outcome State Fault Refusal :=
  .next (finish .w64 (runNextprimeC .w64 s).1 (runNextprimeC .w64 s).2)

/-- NEXTPRIME_C.128 (R227). -/
def execNextprimeC128 (s : State) : Host.Outcome State Fault Refusal :=
  .next (finish .w128 (runNextprimeC .w128 s).1 (runNextprimeC .w128 s).2)

end Sys2Proof.Machine
end

