-- ==== Sys2Proof/Machine/WideArith.lean ====
section
/-! DEFINITION. The modular multiplier: MULMOD and ADDMOD (40_widearith.md). -/

namespace Sys2Proof.Machine

/-- MULMOD (R142, R144) through the multiplier's datapath (R143, R145). -/
def runMulmod (w : Width) (l : Latches) : Run :=
  match mulCheck (opnd w l.p) (opnd w l.a) (opnd w l.b) with
  | some e => raiseError e
  | none =>
    let x := { noWork with r := mulmodP w (opnd w l.p).toNat (opnd w l.a).toNat (opnd w l.b).toNat }
    returnValue x.r x

/-- ADDMOD (R147). -/
def runAddmod (w : Width) (l : Latches) : Run :=
  match mulCheck (opnd w l.p) (opnd w l.a) (opnd w l.b) with
  | some e => raiseError e
  | none =>
    let x := { noWork with s := addmodP (opnd w l.p).toNat (opnd w l.a).toNat (opnd w l.b).toNat }
    returnValue x.s x

/-- MULMOD.64 (R142). -/
def execMulmod64 (s : State) : Host.Outcome State Fault Refusal := .next (finish .w64 (runMulmod .w64 s.latch) s)

/-- MULMOD.128 (R144). -/
def execMulmod128 (s : State) : Host.Outcome State Fault Refusal := .next (finish .w128 (runMulmod .w128 s.latch) s)

/-- ADDMOD.64 (R147). -/
def execAddmod64 (s : State) : Host.Outcome State Fault Refusal := .next (finish .w64 (runAddmod .w64 s.latch) s)

/-- ADDMOD.128 (R147). -/
def execAddmod128 (s : State) : Host.Outcome State Fault Refusal := .next (finish .w128 (runAddmod .w128 s.latch) s)

end Sys2Proof.Machine
end

