-- ==== Sys2Proof/Machine/Dispatch.lean ====
section
/-! DEFINITION. The meaning of each command: its run and its completion (10_state.md R49). -/

namespace Sys2Proof.Machine

def exec (i : Instr) (s : State) : Host.Outcome State Fault Refusal :=
  match i with
  | .mulmod64 => Sys2Proof.Machine.execMulmod64 s
  | .addmod64 => Sys2Proof.Machine.execAddmod64 s
  | .pow2f64 => Sys2Proof.Machine.execPow2f64 s
  | .pow2b64 => Sys2Proof.Machine.execPow2b64 s
  | .pow2l64 => Sys2Proof.Machine.execPow2l64 s
  | .powl64 => Sys2Proof.Machine.execPowl64 s
  | .dlogMn64 => Sys2Proof.Machine.execDlogMn64 s
  | .dlogPl64 => Sys2Proof.Machine.execDlogPl64 s
  | .dlogBg64 => Sys2Proof.Machine.execDlogBg64 s
  | .dlogMnLim64 => Sys2Proof.Machine.execDlogMnLim64 s
  | .dlogPlLim64 => Sys2Proof.Machine.execDlogPlLim64 s
  | .dlogBgLim64 => Sys2Proof.Machine.execDlogBgLim64 s
  | .isprime64 => Sys2Proof.Machine.execIsprime64 s
  | .isprimeW6n64 => Sys2Proof.Machine.execIsprimeW6n64 s
  | .isprimeW30n64 => Sys2Proof.Machine.execIsprimeW30n64 s
  | .isprimeC64 => Sys2Proof.Machine.execIsprimeC64 s
  | .nextprimeC64 => Sys2Proof.Machine.execNextprimeC64 s
  | .mulmod128 => Sys2Proof.Machine.execMulmod128 s
  | .addmod128 => Sys2Proof.Machine.execAddmod128 s
  | .pow2f128 => Sys2Proof.Machine.execPow2f128 s
  | .pow2b128 => Sys2Proof.Machine.execPow2b128 s
  | .pow2l128 => Sys2Proof.Machine.execPow2l128 s
  | .powl128 => Sys2Proof.Machine.execPowl128 s
  | .dlogMn128 => Sys2Proof.Machine.execDlogMn128 s
  | .dlogPl128 => Sys2Proof.Machine.execDlogPl128 s
  | .dlogBg128 => Sys2Proof.Machine.execDlogBg128 s
  | .dlogMnLim128 => Sys2Proof.Machine.execDlogMnLim128 s
  | .dlogPlLim128 => Sys2Proof.Machine.execDlogPlLim128 s
  | .dlogBgLim128 => Sys2Proof.Machine.execDlogBgLim128 s
  | .isprime128 => Sys2Proof.Machine.execIsprime128 s
  | .isprimeW6n128 => Sys2Proof.Machine.execIsprimeW6n128 s
  | .isprimeW30n128 => Sys2Proof.Machine.execIsprimeW30n128 s
  | .isprimeC128 => Sys2Proof.Machine.execIsprimeC128 s
  | .nextprimeC128 => Sys2Proof.Machine.execNextprimeC128 s

end Sys2Proof.Machine
end

