-- ==== Sys2Proof/Machine/Step.lean ====
section
/-! DEFINITION. One step of the machine: the next event of the block's history (20_memory.md R90). -/

namespace Sys2Proof.Machine

/-- The running command runs and completes (R49, R117): a reserved word completes with ILLEGAL_COMMAND (R251). -/
def runCommand (s : State) : Host.Outcome State Fault Refusal :=
  match decode (fetchedWord s) with
  | .ok i => exec i s
  | .error _ => .next (completeError .illegalCommand false false s)

/-- One step: the next event, in their order (R90); when none is left, a running command completes (R51),
and an idle block stays as it is (R273). -/
def step (s : State) : Host.Outcome State Fault Refusal :=
  match s.inputs with
  | [] => if s.status.busy then runCommand s else .next s
  | e :: rest =>
    match e with
    | .blockRead => .next (if s.status.busy then readAhead { s with inputs := rest } else { s with inputs := rest })
    | .completion => if s.status.busy then runCommand { s with inputs := rest } else .next { s with inputs := rest }
    | .hostRead n o => .next (hostRead n o { s with inputs := rest })
    | .hostWrite n o v => .next (hostWrite n o v { s with inputs := rest })
    | .memStore a b => .next (memStore a b { s with inputs := rest })
    | .reset => .next (resetBlock { s with inputs := rest })

/-- The state in which the command word with the bits `w` has just been issued (R48) and its completion is the next
event: the very next step runs it (log 8). -/
def State.withFetchWord (s : State) (nbits w : Nat) : State :=
  { latchCommand (BitVec.ofNat 64 (w % 2 ^ nbits)) s with inputs := .completion :: s.inputs }

end Sys2Proof.Machine
end

