-- ==== Sys2Proof/Safety.lean ====
section
/-! DEFINITION. The terms the claims use: the state a completion leaves (10_state.md R49), the mathematical values of
the rules, and the invariant of the machine. -/

namespace Sys2Proof.Safety

open Sys2Proof.Machine

/-- `s` after a successful completion with result `r` (R49, R61, R62). -/
def afterSuccess (w : Width) (r : Nat) (deg cap : Bool) (s : State) : State :=
  { s with
    rLo := BitVec.ofNat 64 (r % 2 ^ 64)
    rHi := if w = .w128 then BitVec.ofNat 64 (r / 2 ^ 64) else 0#64
    status := { s.status with busy := false, done := true, degraded := deg, capped := cap }
    work := none
    table := []
    touched := []
    bytesRead := [] }

/-- `s` after an error completion with the given code (R49, R256). -/
def afterError (code : BitVec 8) (deg cap : Bool) (s : State) : State :=
  { s with
    errcode := code
    status := { s.status with busy := false, done := true, err := true, degraded := deg, capped := cap }
    work := none
    table := []
    touched := []
    bytesRead := [] }

/-- `s` after reads of the given addresses (R91), with `n` more free values drawn. -/
def afterReads (as : List Nat) (n : Nat) (s : State) : State :=
  { s with reads := s.reads ++ as, draws := s.draws + n }

/-- t is ord_p(2) (R181): the least t ≥ 1 with 2^t mod p = 1 mod p. -/
def IsOrder (p t : Nat) : Prop := IsLeast (fun x => 1 ≤ x ∧ 2 ^ x % p = 1 % p) t

/-- The address lies in one of the ranges. -/
abbrev InSome (rs : List MemRange) (a : Nat) : Prop := ∃ r ∈ rs, r.base ≤ a ∧ a < r.base + r.size

/-- The bitset region does not wrap past 2^64 (R85): its end, base + ⌈BSLEN / 8⌉, is at most 2^64. -/
def RegionFits (l : Latches) : Prop := ∃ q, l.bsLen.toNat ≤ 8 * q ∧ l.bsBase.toNat + q ≤ 2 ^ 64

/-- The address of the byte of bit `i` (R83), in a region that does not wrap. -/
def bitByteAddress (l : Latches) (i : Nat) : Nat := l.bsBase.toNat + i / 8

/-- The address is that of a byte of the bitset region (R85): its first bit lies below BSLEN. -/
def InBitset (l : Latches) (a : Nat) : Prop := l.bsBase.toNat ≤ a ∧ 8 * (a - l.bsBase.toNat) < l.bsLen.toNat

/-- The whole bitset lies in memory whose reads are idempotent (R88). -/
def BitsetIsIdempotent (s : State) : Prop := ∀ a, InBitset s.latch a → ¬ InSome s.volatile a

/-- What the running command reads at address `a` is unspecified (R88, R92): memory is not idempotent there, or another
agent has stored to it since the issue. -/
abbrev FreeByteAt (s : State) (a : Nat) : Prop := InSome s.volatile a ∨ a ∈ s.touched

/-- The running command reads byte `b` at address `a`: memory is readable there and holds `b` (R82), and what the
command reads is specified (R88, R92). -/
abbrev KnownByte (s : State) (a : Nat) (b : Byte) : Prop :=
  InSome s.readable a ∧ ¬ FreeByteAt s a ∧ byteAt s.mem a = b

/-- The addresses of the bytes of the bits n + 1 to j, in that order (R91). -/
def scanned (l : Latches) (n j : Nat) : List Nat := (List.range (j - n)).map fun x => bitByteAddress l (n + 1 + x)

/-- How many of the bytes of the bits n + 1 to j are unspecified (R88, R92). -/
def freeScanned (s : State) (n j : Nat) : Nat := (scanned s.latch n j).countP fun a => decide (FreeByteAt s a)

/-- The byte that a scan from bit n + 1 reads for bit `k`: what memory holds, or the next free byte (R88, R92). -/
def byteScanned (s : State) (n k : Nat) : Byte :=
  if FreeByteAt s (bitByteAddress s.latch k) then Config.freeByte (s.draws + freeScanned s n (k - 1))
  else byteAt s.mem (bitByteAddress s.latch k)

/-- The words of the four BSGS commands (R113). -/
def bsgsWords : List Word := [0x12#64, 0x112#64, 0x16#64, 0x116#64]

/-- What holds of the machine between any two events.
- system memory is in canonical form (log 2);
- TBLBUDGET holds a legal value (R42), and so does L_BUDGET while a command runs (R48);
- ERRCODE holds a code of R250, and ERR is 1 exactly when it is not NONE (R39, R41);
- while a command runs, DONE, ERR, DEGRADED and CAPPED are 0 (R39, R48);
- between commands no concurrent store and no answer to a read is kept (the model's choice, log 7 and log 13);
- no working value and no table entry is kept, between commands or while one runs (the model's choice, log 6 and log 7);
- DEGRADED and CAPPED are 1 only after a BSGS command (R52). -/
structure Inv (s : State) : Prop where
  memory   : memWf s.mem = true
  budget   : 32 ≤ s.tblBudget.toNat ∧ s.tblBudget.toNat ≤ 1048576
  latched  : s.status.busy = true → 32 ≤ s.latch.budget.toNat ∧ s.latch.budget.toNat ≤ 1048576
  code     : s.errcode.toNat ≤ 7
  errBit   : s.status.err = true ↔ s.errcode ≠ 0#8
  running  : s.status.busy = true →
    s.status.done = false ∧ s.status.err = false ∧ s.status.degraded = false ∧ s.status.capped = false
  idle     : s.status.busy = false → s.touched = [] ∧ s.bytesRead = []
  noWork   : s.work = none ∧ s.table = []
  bsgsOnly : s.status.degraded = true ∨ s.status.capped = true → s.latch.cmd ∈ bsgsWords

end Sys2Proof.Safety
end

