-- ==== Sys2Proof/Laws/PerInstr.lean ====
section
/-! SUPPORT. The family EncodingRoundTrip: every command is well-formed and its word decodes to it, as a word and as
little-endian bytes (30_encoding.md R111, R113, R117). -/

namespace Sys2Proof.Laws.EncodingRoundTrip

/-- A command is well-formed, and its word and its bytes decode to it. -/
def Statement (i : Instr) : Prop :=
  i.wellFormed = true ∧ decode (encode i) = .ok i ∧ decodeBytes (bytesOfWord (encode i)) = .ok i

theorem mulmod64 : Statement .mulmod64 := ⟨rfl, rfl, rfl⟩
theorem addmod64 : Statement .addmod64 := ⟨rfl, rfl, rfl⟩
theorem pow2f64 : Statement .pow2f64 := ⟨rfl, rfl, rfl⟩
theorem pow2b64 : Statement .pow2b64 := ⟨rfl, rfl, rfl⟩
theorem pow2l64 : Statement .pow2l64 := ⟨rfl, rfl, rfl⟩
theorem powl64 : Statement .powl64 := ⟨rfl, rfl, rfl⟩
theorem dlogMn64 : Statement .dlogMn64 := ⟨rfl, rfl, rfl⟩
theorem dlogPl64 : Statement .dlogPl64 := ⟨rfl, rfl, rfl⟩
theorem dlogBg64 : Statement .dlogBg64 := ⟨rfl, rfl, rfl⟩
theorem dlogMnLim64 : Statement .dlogMnLim64 := ⟨rfl, rfl, rfl⟩
theorem dlogPlLim64 : Statement .dlogPlLim64 := ⟨rfl, rfl, rfl⟩
theorem dlogBgLim64 : Statement .dlogBgLim64 := ⟨rfl, rfl, rfl⟩
theorem isprime64 : Statement .isprime64 := ⟨rfl, rfl, rfl⟩
theorem isprimeW6n64 : Statement .isprimeW6n64 := ⟨rfl, rfl, rfl⟩
theorem isprimeW30n64 : Statement .isprimeW30n64 := ⟨rfl, rfl, rfl⟩
theorem isprimeC64 : Statement .isprimeC64 := ⟨rfl, rfl, rfl⟩
theorem nextprimeC64 : Statement .nextprimeC64 := ⟨rfl, rfl, rfl⟩
theorem mulmod128 : Statement .mulmod128 := ⟨rfl, rfl, rfl⟩
theorem addmod128 : Statement .addmod128 := ⟨rfl, rfl, rfl⟩
theorem pow2f128 : Statement .pow2f128 := ⟨rfl, rfl, rfl⟩
theorem pow2b128 : Statement .pow2b128 := ⟨rfl, rfl, rfl⟩
theorem pow2l128 : Statement .pow2l128 := ⟨rfl, rfl, rfl⟩
theorem powl128 : Statement .powl128 := ⟨rfl, rfl, rfl⟩
theorem dlogMn128 : Statement .dlogMn128 := ⟨rfl, rfl, rfl⟩
theorem dlogPl128 : Statement .dlogPl128 := ⟨rfl, rfl, rfl⟩
theorem dlogBg128 : Statement .dlogBg128 := ⟨rfl, rfl, rfl⟩
theorem dlogMnLim128 : Statement .dlogMnLim128 := ⟨rfl, rfl, rfl⟩
theorem dlogPlLim128 : Statement .dlogPlLim128 := ⟨rfl, rfl, rfl⟩
theorem dlogBgLim128 : Statement .dlogBgLim128 := ⟨rfl, rfl, rfl⟩
theorem isprime128 : Statement .isprime128 := ⟨rfl, rfl, rfl⟩
theorem isprimeW6n128 : Statement .isprimeW6n128 := ⟨rfl, rfl, rfl⟩
theorem isprimeW30n128 : Statement .isprimeW30n128 := ⟨rfl, rfl, rfl⟩
theorem isprimeC128 : Statement .isprimeC128 := ⟨rfl, rfl, rfl⟩
theorem nextprimeC128 : Statement .nextprimeC128 := ⟨rfl, rfl, rfl⟩

end Sys2Proof.Laws.EncodingRoundTrip
end

