-- ==== Sys2Proof/Machine/Script.lean ====
section
/-! DEFINITION. The host's side of the interface (30_encoding.md R125 to R127): mnemonics, and host scripts as the bus
events they stand for. What a host computes between its accesses is the host's. -/

namespace Sys2Proof.Machine

/-- The 34 commands (R113). -/
def allCommands : List Instr := opMap.map OpRow.at64 ++ opMap.map OpRow.at128

/-- The mnemonic of an operation (R113). -/
def operationName (op : BitVec 8) : String :=
  match op.toNat with
  | 0x01 => "mulmod"
  | 0x02 => "addmod"
  | 0x08 => "pow2f"
  | 0x09 => "pow2b"
  | 0x0A => "pow2l"
  | 0x0B => "powl"
  | 0x10 => "dlog_mn"
  | 0x11 => "dlog_pl"
  | 0x12 => "dlog_bg"
  | 0x14 => "dlog_mn_lim"
  | 0x15 => "dlog_pl_lim"
  | 0x16 => "dlog_bg_lim"
  | 0x20 => "isprime"
  | 0x21 => "isprime_w6"
  | 0x22 => "isprime_w30"
  | 0x24 => "isprime_c"
  | 0x25 => "nextprime_c"
  | _ => ""

/-- A command's mnemonic with its width, in small letters (R125). -/
def mnemonicOf (i : Instr) : String :=
  operationName (opOf i) ++ match widthOf i with | .w64 => ".64" | .w128 => ".128"

/-- The command word that a mnemonic stands for; case is not significant (R125). -/
def assemble (text : String) : Option Word :=
  (allCommands.find? fun i => decide ((mnemonicOf i).toList = text.toList.map Char.toLower)).map encode

/-- `wr REG, v` (R126). -/
def wr (r : Reg) (v : Word) : Event := .hostWrite 8 (offsetOf r) v

/-- `rd REG -> t` (R126); the value read is the next response. -/
def rd (r : Reg) : Event := .hostRead 8 (offsetOf r)

/-- The LO register of an operand (R45). -/
def loReg : OperandReg → Reg
  | .p => .pLo
  | .a => .aLo
  | .b => .bLo

/-- The HI register of an operand (R45). -/
def hiReg : OperandReg → Reg
  | .p => .pHi
  | .a => .aHi
  | .b => .bHi

/-- The LO write of an operand value (R127). -/
def wrLo (x : OperandReg) (v : Int) : Event := wr (loReg x) (BitVec.ofNat 64 (v % 2 ^ 64).toNat)

/-- `wr128 X, v` (R127). -/
def wr128 (x : OperandReg) (v : Int) : List Event :=
  [wrLo x v, wr (hiReg x) (BitVec.ofNat 64 ((v % 2 ^ 128).toNat / 2 ^ 64))]

/-- The writes of operand values before a command (R127): LO registers at width 64, both halves at width 128. -/
def wrOperand (w : Width) (x : OperandReg) (v : Int) : List Event :=
  match w with
  | .w64 => [wrLo x v]
  | .w128 => wr128 x v

/-- The writes of a command's operands, in the order of R118. -/
def wrOperands (w : Width) : List OperandReg → List Int → List Event
  | x :: xs, v :: vs => wrOperand w x v ++ wrOperands w xs vs
  | _, _ => []

/-- `wait` (R127) when `polls` reads of STATUS see BUSY = 1: the command completes, and one more read sees BUSY = 0. How
many polls there are is time, which the rules do not fix (R291). -/
def waitFor (polls : Nat) : List Event := List.replicate polls (rd .status) ++ [.completion, rd .status]

/-- `<mn>.64 x1, …` and `<mn>.128 x1, …` (R127). -/
def commandEvents (i : Instr) (xs : List Int) (polls : Nat) : List Event :=
  wrOperands (widthOf i) (operandsOf i) xs ++ [wr .cmd (encode i)] ++ waitFor polls

/-- The reads of `result -> t` (R127). -/
def resultReads : List Event := [rd .rLo, rd .rHi]

/-- The value of `result -> t` from the two words read (R127). -/
def resultOf (lo hi : Word) : Nat := hi.toNat * 2 ^ 64 + lo.toNat

/-- The reads of `check -> e` (R127), given the STATUS the first of them returns. -/
def checkReads (status : Word) : List Event :=
  if status.getLsbD 2 then [rd .status, rd .errcode] else [rd .status]

/-- The value of `check -> e` (R127). -/
def checkOf (status errcode : Word) : Word := if status.getLsbD 2 then errcode else 0

end Sys2Proof.Machine
end

