-- ==== Sys2Proof/Certificates/Slice0/Obligations.lean ====
section
/-! DEFINITION. The statements about libmp-MAE that the provers settle, in the order of the spec's rules. -/

open Sys2Proof Sys2Proof.Machine Sys2Proof.Safety

/-! ### Encoding and decoding -/

/-- A few words, bit by bit from R111 and R113, and three reserved ones (R114). -/
def Obligations.SampleWordsDecode : Prop :=
  decode 0x0000000000000001#64 = .ok .mulmod64 ∧ decode 0x000000000000010B#64 = .ok .powl128 ∧
  decode 0x0000000000000016#64 = .ok .dlogBgLim64 ∧ decode 0x0000000000000125#64 = .ok .nextprimeC128 ∧
  decode 0x0000000000000000#64 = .error (.reservedOp 0#8) ∧ decode 0x0000000000000023#64 = .error (.reservedOp 0x23#8) ∧
  decode 0x0000000000000201#64 = .error .reservedBits

/-- Decoding and encoding are inverse to each other: every well-formed command's word, and its eight little-endian
bytes, decode to it, and a word that decodes to a command is that command's word (R111, R113, R117). -/
def Obligations.DecodeInvertsEncode : Prop :=
  (∀ i : Instr, i.wellFormed = true → decode (encode i) = .ok i ∧ decodeBytes (bytesOfWord (encode i)) = .ok i) ∧
  (∀ (c : Word) (i : Instr), decode c = .ok i → c = encode i)

/-- A word is refused exactly when RSV ≠ 0 or OP is no value of R113; no other word is (R114). -/
def Obligations.ReservedWordsAreRefused : Prop :=
  ∀ c : Word, (∃ e, decode c = .error e) ↔
    c.toNat / 2 ^ 9 ≠ 0 ∨ c.toNat % 2 ^ 8 ∉
      [0x01, 0x02, 0x08, 0x09, 0x0A, 0x0B, 0x10, 0x11, 0x12, 0x14, 0x15, 0x16, 0x20, 0x21, 0x22, 0x24, 0x25]

/-! ### The step -/

/-- A step runs the decoded command: where the block is BUSY and its latched word decodes to a well-formed command,
the completion event is exec of that command (R49, R117). That a step with no event left is so too is the model's choice
(log 8): R51 says only that completion is eventual. -/
def Obligations.StepRunsTheDecodedCommand : Prop :=
  ∀ (s : State) (i : Instr) (rest : List Event), i.wellFormed = true → s.status.busy = true →
    decode s.latch.cmd = .ok i →
    (s.inputs = [] → step s = exec i s) ∧
    (s.inputs = .completion :: rest → step s = exec i { s with inputs := rest })

/-- A reserved word that was issued completes with ILLEGAL_COMMAND, code 1, and leaves R alone (R251, R256). That the
block completes so when no event is left, too, is the model's choice (log 8). -/
def Obligations.ReservedWordCompletesIllegal : Prop :=
  ∀ (s : State) (rest : List Event), s.status.busy = true →
    (s.latch.cmd.toNat / 2 ^ 9 ≠ 0 ∨ s.latch.cmd.toNat % 2 ^ 8 ∉
      [0x01, 0x02, 0x08, 0x09, 0x0A, 0x0B, 0x10, 0x11, 0x12, 0x14, 0x15, 0x16, 0x20, 0x21, 0x22, 0x24, 0x25]) →
    (s.inputs = [] → step s = .next (afterError 1#8 false false s)) ∧
    (s.inputs = .completion :: rest → step s = .next (afterError 1#8 false false { s with inputs := rest }))

/-- Every step answers a next state: nothing stops the machine. -/
def Obligations.StepAlwaysContinues : Prop := ∀ s : State, ∃ t, step s = .next t

/-- Whatever is still to come, one step more than there are events brings the block to idle with no event left. R51 says
only that a running command completes in the end; that one still running when no event is left does so in the next step
is the model's choice (log 8). A command that a reset abandons has no completion (R281). -/
def Obligations.BlockComesToIdle : Prop :=
  ∀ s : State, ∃ t : State, Host.Core.run Sys2Proof.core (s.inputs.length + 1) s = .next t ∧
    t.status.busy = false ∧ t.inputs = []

/-- While a command runs, only its completion and a reset end it or change its latches, R, ERRCODE, ERR, DEGRADED or
CAPPED (R50, R60). -/
def Obligations.RunningCommandIsUndisturbed : Prop :=
  ∀ (s t : State) (e : Event) (rest : List Event), s.inputs = e :: rest → e ≠ .completion → e ≠ .reset →
    s.status.busy = true → step s = .next t →
    t.status.busy = true ∧ t.latch = s.latch ∧ t.rLo = s.rLo ∧ t.rHi = s.rHi ∧ t.errcode = s.errcode ∧
    t.status.err = s.status.err ∧ t.status.degraded = s.status.degraded ∧ t.status.capped = s.status.capped

/-- Only a store by another bus agent changes system memory: the block never writes it (R81). -/
def Obligations.BlockNeverWritesMemory : Prop :=
  ∀ s t : State, step s = .next t → (∀ a b rest, s.inputs ≠ .memStore a b :: rest) → t.mem = s.mem

/-! ### The register window -/

/-- An access that is not 8 bytes wide, or not at a multiple of 8, gets a bus error and changes nothing else (R31). -/
def Obligations.RefusedAccessHasNoEffect : Prop :=
  ∀ (s : State) (rest : List Event) (width : Nat) (o : Offset) (v : Word), width ≠ 8 ∨ o.toNat % 8 ≠ 0 →
    (s.inputs = .hostRead width o :: rest →
      step s = .next { s with inputs := rest, responses := s.responses ++ [.busError] }) ∧
    (s.inputs = .hostWrite width o v :: rest →
      step s = .next { s with inputs := rest, responses := s.responses ++ [.busError] })

/-- A read of a register returns its value and changes nothing else (R33, R35 to R45, R88). -/
def Obligations.ReadReturnsTheRegister : Prop :=
  ∀ (s : State) (rest : List Event) (o : Offset) (v : Word), s.inputs = .hostRead 8 o :: rest →
    (o, v) ∈ [(0x000#12, 0x4C49424D50000007#64), (0x008#12, BitVec.ofNat 64 s.ie.toNat), (0x010#12, 0#64),
      (0x018#12, BitVec.ofNat 64 (s.status.busy.toNat + 2 * s.status.done.toNat + 4 * s.status.err.toNat +
        8 * s.status.degraded.toNat + 16 * s.status.capped.toNat + 32 * s.status.ovr.toNat)),
      (0x020#12, BitVec.ofNat 64 s.errcode.toNat), (0x028#12, s.tblBudget), (0x030#12, s.bsBase),
      (0x038#12, s.bsLen), (0x040#12, s.pLo), (0x048#12, s.pHi), (0x050#12, s.aLo), (0x058#12, s.aHi),
      (0x060#12, s.bLo), (0x068#12, s.bHi), (0x070#12, s.rLo), (0x078#12, s.rHi)] →
    step s = .next { s with inputs := rest, responses := s.responses ++ [.data v] }

/-- Reserved offsets read as 0 and ignore writes, without a bus error (R34). -/
def Obligations.ReservedOffsetsAreInert : Prop :=
  ∀ (s : State) (rest : List Event) (o : Offset) (v : Word), 0x080 ≤ o.toNat → o.toNat % 8 = 0 →
    (s.inputs = .hostRead 8 o :: rest →
      step s = .next { s with inputs := rest, responses := s.responses ++ [.data 0] }) ∧
    (s.inputs = .hostWrite 8 o v :: rest →
      step s = .next { s with inputs := rest, responses := s.responses ++ [.ack] })

/-- Writes to ID, ERRCODE, R_LO, R_HI and to the RO bits of STATUS are ignored without a bus error; a read of CMD
returns 0 and has no effect (R35). -/
def Obligations.ReadOnlyRegistersIgnoreWrites : Prop :=
  ∀ (s : State) (rest : List Event) (v : Word),
    (∀ o : Offset, o ∈ [0x000#12, 0x020#12, 0x070#12, 0x078#12] → s.inputs = .hostWrite 8 o v :: rest →
      step s = .next { s with inputs := rest, responses := s.responses ++ [.ack] }) ∧
    (s.inputs = .hostWrite 8 0x018#12 (v &&& ~~~ 0x22#64) :: rest →
      step s = .next { s with inputs := rest, responses := s.responses ++ [.ack] }) ∧
    (s.inputs = .hostRead 8 0x010#12 :: rest →
      step s = .next { s with inputs := rest, responses := s.responses ++ [.data 0] })

/-- A write to STATUS clears DONE if its bit 1 is set and OVR if its bit 5 is set, and nothing else (R40). -/
def Obligations.StatusWriteClearsDoneAndOvr : Prop :=
  ∀ (s : State) (rest : List Event) (v : Word), s.inputs = .hostWrite 8 0x018#12 v :: rest →
    step s = .next { s with
      inputs := rest
      responses := s.responses ++ [.ack]
      status := { s.status with
        done := if v.toNat / 2 % 2 = 1 then false else s.status.done
        ovr := if v.toNat / 32 % 2 = 1 then false else s.status.ovr } }

/-- A write to CTRL sets IE from bit 0 and nothing else, whether or not a command runs; IE is 0 after reset (R37). -/
def Obligations.CtrlWriteSetsInterruptEnable : Prop :=
  State.reset.ie = false ∧
  ∀ (s : State) (rest : List Event) (v : Word), s.inputs = .hostWrite 8 0x008#12 v :: rest →
    step s = .next { s with inputs := rest, responses := s.responses ++ [.ack], ie := decide (v.toNat % 2 = 1) }

/-- A write to TBLBUDGET stores the value clamped to 32 to TABLE_BYTES and nothing else; the stored value is legal; it
is 0x100000 after reset (R42). -/
def Obligations.TblBudgetWriteIsClamped : Prop :=
  State.reset.tblBudget = 0x100000#64 ∧
  ∀ (s : State) (rest : List Event) (v : Word), s.inputs = .hostWrite 8 0x028#12 v :: rest →
    ∃ x : Word, x.toNat = min (max v.toNat 32) 1048576 ∧ 32 ≤ x.toNat ∧ x.toNat ≤ 1048576 ∧
      step s = .next { s with inputs := rest, responses := s.responses ++ [.ack], tblBudget := x }

/-- A write to BSBASE, BSLEN or a half of P, A or B stores all 64 bits there and changes nothing else: neither the
other half nor a running command's latches (R43, R44, R45, R287). -/
def Obligations.OperandWriteStoresTheWord : Prop :=
  ∀ (s t : State) (rest : List Event) (o : Offset) (v : Word), s.inputs = .hostWrite 8 o v :: rest →
    (o, t) ∈ [(0x030#12, { s with bsBase := v }), (0x038#12, { s with bsLen := v }), (0x040#12, { s with pLo := v }),
      (0x048#12, { s with pHi := v }), (0x050#12, { s with aLo := v }), (0x058#12, { s with aHi := v }),
      (0x060#12, { s with bLo := v }), (0x068#12, { s with bHi := v })] →
    step s = .next { t with inputs := rest, responses := s.responses ++ [.ack] }

/-- A command write: while BUSY it only sets OVR; otherwise it latches the word, the operands and the configuration,
sets BUSY and clears DONE, ERR, DEGRADED, CAPPED and ERRCODE (R48). That it starts with no concurrent store and no
answer to a read on hand is the model's bookkeeping (log 7, log 13). -/
def Obligations.CommandWriteIssues : Prop :=
  ∀ (s : State) (rest : List Event) (c : Word), s.inputs = .hostWrite 8 0x010#12 c :: rest →
    (s.status.busy = true → step s = .next { s with
      inputs := rest, responses := s.responses ++ [.ack], status := { s.status with ovr := true } }) ∧
    (s.status.busy = false → step s = .next { s with
      inputs := rest
      responses := s.responses ++ [.ack]
      latch := ⟨c, s.pHi ++ s.pLo, s.aHi ++ s.aLo, s.bHi ++ s.bLo, s.tblBudget, s.bsBase, s.bsLen⟩
      status := ⟨true, false, false, false, false, s.status.ovr⟩
      errcode := 0
      touched := []
      bytesRead := [] })

/-- The window lies at a multiple of 4096, and an offset is found again in the platform address it stands for (R30). -/
def Obligations.WindowAddressesRoundTrip : Prop :=
  Config.blockBase.toNat % 4096 = 0 ∧ ∀ o : Offset, windowOffset (windowAddress o) = some o

/-- `wr128 X, v` leaves X holding v mod 2^128 and the other operand registers as they were (R127). -/
def Obligations.Wr128StoresTheOperand : Prop :=
  ∀ (s : State) (x : OperandReg) (v : Int), s.inputs = wr128 x v →
    ∃ t, Host.Core.run Sys2Proof.core 2 s = .next t ∧ ((operandValue t x).toNat : Int) = v % 2 ^ 128 ∧
      ∀ y, y ≠ x → operandValue t y = operandValue s y

/-- IRQ is CTRL.IE and STATUS.DONE (R262). A completion raises it when IE is set, and an issue, a reset or a STATUS
write with bit 1 set drops it (R263, R280). -/
def Obligations.InterruptFollowsDone : Prop :=
  (∀ s : State, irq s = true ↔ s.ie = true ∧ s.status.done = true) ∧
  (∀ (i : Instr) (s t : State), exec i s = .next t → irq t = s.ie) ∧
  (∀ (s t : State) (c : Word) (rest : List Event), s.status.busy = false → s.inputs = .hostWrite 8 0x010#12 c :: rest →
    step s = .next t → irq t = false) ∧
  (∀ (s t : State) (rest : List Event), s.inputs = .reset :: rest → step s = .next t → irq t = false) ∧
  (∀ (s t : State) (v : Word) (rest : List Event), v.toNat / 2 % 2 = 1 → s.inputs = .hostWrite 8 0x018#12 v :: rest →
    step s = .next t → irq t = false)

/-! ### Reset -/

/-- The registers after reset, and the block idle with its interrupt masked (R280, R283). -/
def Obligations.ResetRegisterValues : Prop :=
  State.reset.ie = false ∧ State.reset.status = ⟨false, false, false, false, false, false⟩ ∧
  State.reset.errcode = 0#8 ∧ State.reset.tblBudget = 0x100000#64 ∧ State.reset.bsBase = 0#64 ∧
  State.reset.bsLen = 0#64 ∧ State.reset.pLo = 0#64 ∧ State.reset.pHi = 0#64 ∧ State.reset.aLo = 0#64 ∧
  State.reset.aHi = 0#64 ∧ State.reset.bLo = 0#64 ∧ State.reset.bHi = 0#64 ∧ State.reset.rLo = 0#64 ∧
  State.reset.rHi = 0#64 ∧ readReg .id State.reset = 0x4C49424D50000007#64 ∧ irq State.reset = false

/-- A reset, at any time, gives every register its reset value and abandons a running command: no completion, DONE and
IRQ 0, R 0. System memory is left as it is (R280, R281). -/
def Obligations.ResetAbandonsTheCommand : Prop :=
  ∀ (s t : State) (rest : List Event), s.inputs = .reset :: rest → step s = .next t →
    t.status = ⟨false, false, false, false, false, false⟩ ∧ t.errcode = 0#8 ∧ t.ie = false ∧
    t.tblBudget = 0x100000#64 ∧ t.bsBase = 0#64 ∧ t.bsLen = 0#64 ∧ t.pLo = 0#64 ∧ t.pHi = 0#64 ∧ t.aLo = 0#64 ∧
    t.aHi = 0#64 ∧ t.bLo = 0#64 ∧ t.bHi = 0#64 ∧ t.rLo = 0#64 ∧ t.rHi = 0#64 ∧ irq t = false ∧
    t.mem = s.mem ∧ t.readable = s.readable ∧ t.volatile = s.volatile ∧ t.inputs = rest

/-! ### System memory -/

/-- Another agent's store into readable, idempotent memory is what a lookup then finds, every other byte is as before,
and while a command runs the stored address counts as changed under it (R82, R92). -/
def Obligations.AgentStoreIsSeen : Prop :=
  ∀ (s : State) (rest : List Event) (a : Addr) (b : Byte), s.inputs = .memStore a b :: rest →
    ∃ m ts, step s = .next { s with inputs := rest, mem := m, touched := ts } ∧
      (∀ x, x ≠ a.toNat → memLookup m x = memLookup s.mem x) ∧
      (InSome s.readable a.toNat → ¬ InSome s.volatile a.toNat → memLookup m a.toNat = some b) ∧
      (¬ InSome s.readable a.toNat ∨ InSome s.volatile a.toNat → m = s.mem) ∧
      (memWf s.mem = true → memWf m = true) ∧
      (s.status.busy = true → ∀ x, x ∈ ts ↔ x = a.toNat ∨ x ∈ s.touched) ∧
      (s.status.busy = false → ts = s.touched)

/-! ### Completions -/

/-- Every command ends in exactly one completion: a successful one that writes R and DONE, or an error completion that
writes ERRCODE, ERR and DONE and leaves R alone. Nothing else changes but the log of its reads, the count of free
values and the run's own bookkeeping, which ends (log 7, log 13): no operand or configuration register, no latch, no byte of memory (R49, R256). -/
def Obligations.CompletionFrame : Prop :=
  ∀ (i : Instr) (s t : State), exec i s = .next t → ∃ as n,
    (∃ r deg cap, t = afterSuccess (widthOf i) r deg cap (afterReads as n s)) ∨
    (∃ code deg cap, 1 ≤ code.toNat ∧ code.toNat ≤ 7 ∧ t = afterError code deg cap (afterReads as n s))

/-- Only DLOG_BG and DLOG_BG_LIM write DEGRADED or CAPPED as 1 (R52). -/
def Obligations.OnlyBsgsReportsFlags : Prop :=
  ∀ (i : Instr) (s t : State), exec i s = .next t → t.status.degraded = true ∨ t.status.capped = true →
    i ∈ [Instr.dlogBg64, .dlogBg128, .dlogBgLim64, .dlogBgLim128]

/-- A successful result lies in [0, 2^(W−1)); at W = 64 R_HI is 0; a boolean result is 0 or 1 (R120), that of ISPRIME_C
where the bitset's reads are idempotent: where they are not, R88 leaves the result open. -/
def Obligations.ResultsAreInRange : Prop :=
  ∀ (i : Instr) (s t : State), exec i s = .next t → t.status.err = false →
    (widthOf i = .w64 → t.rHi = 0#64 ∧ t.rLo.toNat < 2 ^ 63) ∧
    (widthOf i = .w128 → t.rHi.toNat < 2 ^ 63) ∧
    (i ∈ [Instr.isprime64, .isprime128, .isprimeW6n64, .isprimeW6n128, .isprimeW30n64, .isprimeW30n128] ∨
      (i ∈ [Instr.isprimeC64, .isprimeC128] ∧ BitsetIsIdempotent s) → t.rHi = 0#64 ∧ (t.rLo = 0#64 ∨ t.rLo = 1#64))

/-- Which command reports which error, and when (R252, R253, R254, R257), in the order of the checks (R140, R160, R180,
R260): a command that starts with ERRCODE 0, as
issue leaves it, ends with code 2 exactly when it has a modulus and that is not positive; 3 exactly when it is odd-only
and its positive modulus is even; 4 exactly when the earlier checks pass and an operand is out of range; 5 exactly when
it reads the bitset and the region wraps or an index or limit lies outside (R225, R227). No command reports code 1, which
decoding alone raises (R117, R251). -/
def Obligations.ErrorsAreRaisedExactlyWhen : Prop :=
  ∀ (i : Instr) (s t : State) (p a b : Int), s.errcode = 0#8 → exec i s = .next t →
    opnd (widthOf i) s.latch.p = p → opnd (widthOf i) s.latch.a = a → opnd (widthOf i) s.latch.b = b →
    let mul := [Instr.mulmod64, .mulmod128, .addmod64, .addmod128]
    let pow := [Instr.pow2f64, .pow2f128, .pow2b64, .pow2b128, .pow2l64, .pow2l128, .powl64, .powl128]
    let dlog := [Instr.dlogMn64, .dlogMn128, .dlogPl64, .dlogPl128, .dlogBg64, .dlogBg128, .dlogMnLim64, .dlogMnLim128,
      .dlogPlLim64, .dlogPlLim128, .dlogBgLim64, .dlogBgLim128]
    let back := [Instr.pow2b64, .pow2b128]
    t.errcode ≠ 1#8 ∧
    (t.errcode = 2#8 ↔ i ∈ mul ++ pow ++ dlog ∧ p ≤ 0) ∧
    (t.errcode = 3#8 ↔ i ∈ back ++ dlog ∧ 0 < p ∧ p % 2 = 0) ∧
    (t.errcode = 4#8 ↔ 0 < p ∧ ((i ∈ mul ∧ (a < 0 ∨ p ≤ a ∨ b < 0 ∨ p ≤ b)) ∨
      (i ∈ pow ∧ (i ∈ back → p % 2 = 1) ∧ (a < 0 ∨ (i ∈ [Instr.powl64, .powl128] ∧ b < 0))))) ∧
    (t.errcode = 5#8 ↔
      (i ∈ [Instr.isprimeC64, .isprimeC128] ∧ (¬ RegionFits s.latch ∨ p < 0 ∨ (s.latch.bsLen.toNat : Int) ≤ p)) ∨
      (i ∈ [Instr.nextprimeC64, .nextprimeC128] ∧ (¬ RegionFits s.latch ∨ p < 0 ∨ (s.latch.bsLen.toNat : Int) < a)))

/-- EXHAUSTED never happens: with a legal budget no command reports code 7 (R198, R259). -/
def Obligations.ExhaustedIsUnreachable : Prop :=
  ∀ (i : Instr) (s t : State), 32 ≤ s.latch.budget.toNat → s.errcode ≠ 7#8 → exec i s = .next t → t.errcode ≠ 7#8

/-- Two runs with equal latched inputs and equal bitset bytes give equal results, STATUS and ERRCODE, whatever the
host-visible registers and the rest of memory hold (R60, R63). The count of free values matters only where some byte of
the bitset is unspecified (R88, R92). -/
def Obligations.ResultsDependOnLatchesAndBitset : Prop :=
  ∀ (i : Instr) (s u s' u' : State), exec i s = .next s' → exec i u = .next u' → u.latch = s.latch →
    u.bytesRead = s.bytesRead →
    (∀ a, InBitset s.latch a → byteAt u.mem a = byteAt s.mem a ∧ (InSome u.readable a ↔ InSome s.readable a) ∧
      (InSome u.volatile a ↔ InSome s.volatile a) ∧ (a ∈ u.touched ↔ a ∈ s.touched)) →
    (u.draws = s.draws ∨ ∀ a, InBitset s.latch a → ¬ FreeByteAt s a) →
    u.status = s.status → u.errcode = s.errcode → s.status.err = false →
    u'.status = s'.status ∧ u'.errcode = s'.errcode ∧
    (s'.status.err = false → u'.rLo = s'.rLo ∧ u'.rHi = s'.rHi)

/-- A command never reads an operand register that R118 does not give it. -/
def Obligations.UnnamedOperandsAreNotRead : Prop :=
  ∀ (i : Instr) (s t : State) (x y z : Wide), exec i s = .next t →
    (.p ∈ operandsOf i → x = s.latch.p) → (.a ∈ operandsOf i → y = s.latch.a) → (.b ∈ operandsOf i → z = s.latch.b) →
    exec i { s with latch := { s.latch with p := x, a := y, b := z } } =
      .next { t with latch := { t.latch with p := x, a := y, b := z } }

/-- At W = 64 the upper halves of the operands affect nothing (R119). -/
def Obligations.UpperHalvesAreIgnoredAtWidth64 : Prop :=
  ∀ (i : Instr) (s t : State) (x y z : Wide), widthOf i = .w64 → exec i s = .next t →
    x.toNat % 2 ^ 64 = s.latch.p.toNat % 2 ^ 64 → y.toNat % 2 ^ 64 = s.latch.a.toNat % 2 ^ 64 →
    z.toNat % 2 ^ 64 = s.latch.b.toNat % 2 ^ 64 →
    exec i { s with latch := { s.latch with p := x, a := y, b := z } } =
      .next { t with latch := { t.latch with p := x, a := y, b := z } }

/-- An operand is the two's complement value of the low W bits of its latch (R11, R119). -/
def Obligations.OperandsAreSigned : Prop :=
  ∀ x : Wide,
    opnd .w64 x = (if x.toNat % 2 ^ 64 < 2 ^ 63 then (x.toNat % 2 ^ 64 : Int) else (x.toNat % 2 ^ 64 : Int) - 2 ^ 64) ∧
    opnd .w128 x = (if x.toNat < 2 ^ 127 then (x.toNat : Int) else (x.toNat : Int) - 2 ^ 128)

/-! ### The modular multiplier -/

/-- The 64-bit multiplier path gives (a·b) mod p, whichever of its two products runs (R143, R149). -/
def Obligations.MultiplierPath64IsExact : Prop :=
  ∀ p a b : Nat, 0 < p → p < 2 ^ 63 → a < p → b < p → mulmodPath64 p a b = a * b % p

/-- The 256-bit datapath: hi·2^128 + lo = a·b with lo below 2^128 and hi below 2^126, its reduction gives
(a·b) mod p, and so does the 128-bit multiplier for residues (R145, R146). -/
def Obligations.WideDatapathIsExact : Prop :=
  ∀ p a b : Nat, a < 2 ^ 127 → b < 2 ^ 127 → 0 < p → p < 2 ^ 127 →
    (wideProduct a b).1 * 2 ^ 128 + (wideProduct a b).2 = a * b ∧ (wideProduct a b).2 < 2 ^ 128 ∧
    (wideProduct a b).1 < 2 ^ 126 ∧ reduceWide p (wideProduct a b).1 (wideProduct a b).2 = a * b % p ∧
    mulmodPath128 p a b = a * b % p

/-- MULMOD at both widths (R142, R144): (a·b) mod p for a, b in [0, p); INVALID_OPERAND, code 2, for p ≤ 0;
OPERAND_RANGE, code 4, for a or b outside [0, p). -/
def Obligations.MulmodFollowsItsRule : Prop :=
  encode .mulmod64 = 0x1#64 ∧ encode .mulmod128 = 0x101#64 ∧
  ∀ (i : Instr) (w : Width) (s : State) (p a b : Int), (i, w) ∈ [(.mulmod64, .w64), (.mulmod128, .w128)] →
    opnd w s.latch.p = p → opnd w s.latch.a = a → opnd w s.latch.b = b →
    (0 ≤ a → a < p → 0 ≤ b → b < p → exec i s = .next (afterSuccess w (a * b % p).toNat false false s)) ∧
    (p ≤ 0 → exec i s = .next (afterError 2#8 false false s)) ∧
    (0 < p → a < 0 ∨ p ≤ a ∨ b < 0 ∨ p ≤ b → exec i s = .next (afterError 4#8 false false s))

/-- ADDMOD at both widths (R147): (a+b) mod p for a, b in [0, p), with the errors of MULMOD. -/
def Obligations.AddmodFollowsItsRule : Prop :=
  encode .addmod64 = 0x2#64 ∧ encode .addmod128 = 0x102#64 ∧
  ∀ (i : Instr) (w : Width) (s : State) (p a b : Int), (i, w) ∈ [(.addmod64, .w64), (.addmod128, .w128)] →
    opnd w s.latch.p = p → opnd w s.latch.a = a → opnd w s.latch.b = b →
    (0 ≤ a → a < p → 0 ≤ b → b < p → exec i s = .next (afterSuccess w ((a + b) % p).toNat false false s)) ∧
    (p ≤ 0 → exec i s = .next (afterError 2#8 false false s)) ∧
    (0 < p → a < 0 ∨ p ≤ a ∨ b < 0 ∨ p ≤ b → exec i s = .next (afterError 4#8 false false s))

/-! ### The modular exponentiation engine -/

/-- POW2F at both widths (R161): 2^k mod p; INVALID_OPERAND for p ≤ 0; OPERAND_RANGE for k < 0. -/
def Obligations.Pow2fFollowsItsRule : Prop :=
  encode .pow2f64 = 0x8#64 ∧ encode .pow2f128 = 0x108#64 ∧
  ∀ (i : Instr) (w : Width) (s : State) (p k : Int), (i, w) ∈ [(.pow2f64, .w64), (.pow2f128, .w128)] →
    opnd w s.latch.p = p → opnd w s.latch.a = k →
    (0 < p → 0 ≤ k → exec i s = .next (afterSuccess w (2 ^ k.toNat % p.toNat) false false s)) ∧
    (p ≤ 0 → exec i s = .next (afterError 2#8 false false s)) ∧
    (0 < p → k < 0 → exec i s = .next (afterError 4#8 false false s))

/-- POW2B at both widths (R162): the v in [0, p) with v·2^k ≡ 1 (mod p); INVALID_OPERAND for p ≤ 0; EVEN_MODULUS,
code 3, for even p; OPERAND_RANGE for k < 0. -/
def Obligations.Pow2bFollowsItsRule : Prop :=
  encode .pow2b64 = 0x9#64 ∧ encode .pow2b128 = 0x109#64 ∧
  ∀ (i : Instr) (w : Width) (s : State) (p k : Int), (i, w) ∈ [(.pow2b64, .w64), (.pow2b128, .w128)] →
    opnd w s.latch.p = p → opnd w s.latch.a = k →
    (0 < p → p % 2 = 1 → 0 ≤ k → ∃ v < p.toNat, v * 2 ^ k.toNat % p.toNat = 1 % p.toNat ∧
      exec i s = .next (afterSuccess w v false false s)) ∧
    (p ≤ 0 → exec i s = .next (afterError 2#8 false false s)) ∧
    (0 < p → p % 2 = 0 → exec i s = .next (afterError 3#8 false false s)) ∧
    (0 < p → p % 2 = 1 → k < 0 → exec i s = .next (afterError 4#8 false false s))

/-- POW2L at both widths (R163): 2^k mod p, with the errors of POW2F. -/
def Obligations.Pow2lFollowsItsRule : Prop :=
  encode .pow2l64 = 0xA#64 ∧ encode .pow2l128 = 0x10A#64 ∧
  ∀ (i : Instr) (w : Width) (s : State) (p k : Int), (i, w) ∈ [(.pow2l64, .w64), (.pow2l128, .w128)] →
    opnd w s.latch.p = p → opnd w s.latch.a = k →
    (0 < p → 0 ≤ k → exec i s = .next (afterSuccess w (2 ^ k.toNat % p.toNat) false false s)) ∧
    (p ≤ 0 → exec i s = .next (afterError 2#8 false false s)) ∧
    (0 < p → k < 0 → exec i s = .next (afterError 4#8 false false s))

/-- POWL at both widths (R164): b^k mod p for any base b ≥ 0; INVALID_OPERAND for p ≤ 0; OPERAND_RANGE for k < 0 or
b < 0. -/
def Obligations.PowlFollowsItsRule : Prop :=
  encode .powl64 = 0xB#64 ∧ encode .powl128 = 0x10B#64 ∧
  ∀ (i : Instr) (w : Width) (s : State) (p k b : Int), (i, w) ∈ [(.powl64, .w64), (.powl128, .w128)] →
    opnd w s.latch.p = p → opnd w s.latch.a = k → opnd w s.latch.b = b →
    (0 < p → 0 ≤ k → 0 ≤ b → exec i s = .next (afterSuccess w (b.toNat ^ k.toNat % p.toNat) false false s)) ∧
    (p ≤ 0 → exec i s = .next (afterError 2#8 false false s)) ∧
    (0 < p → k < 0 ∨ b < 0 → exec i s = .next (afterError 4#8 false false s))

/-- The exponentiation commands agree (R165): POW2F, POW2L and POWL with base 2 give 2^k mod p; for odd p POW2B gives
its inverse; and each gives the same value at both widths for operands that fit both. -/
def Obligations.ExponentiationsAgree : Prop :=
  ∀ (s u : State) (p k b : Nat), 0 < p →
    opnd .w64 s.latch.p = p → opnd .w64 s.latch.a = k → opnd .w64 s.latch.b = b →
    opnd .w128 u.latch.p = p → opnd .w128 u.latch.a = k → opnd .w128 u.latch.b = b →
    ∃ f l g : Nat, f = 2 ^ k % p ∧ l = f ∧ (b = 2 → g = f) ∧
      exec .pow2f64 s = .next (afterSuccess .w64 f false false s) ∧
      exec .pow2f128 u = .next (afterSuccess .w128 f false false u) ∧
      exec .pow2l64 s = .next (afterSuccess .w64 l false false s) ∧
      exec .pow2l128 u = .next (afterSuccess .w128 l false false u) ∧
      exec .powl64 s = .next (afterSuccess .w64 g false false s) ∧
      exec .powl128 u = .next (afterSuccess .w128 g false false u) ∧
      (p % 2 = 1 → ∃ v < p, v * 2 ^ k % p = 1 % p ∧ (∀ x < p, x * 2 ^ k % p = 1 % p → x = v) ∧ v * f % p = 1 % p ∧
        exec .pow2b64 s = .next (afterSuccess .w64 v false false s) ∧
        exec .pow2b128 u = .next (afterSuccess .w128 v false false u))

/-! ### The discrete-logarithm solver -/

/-- Linear stepping (R183, R184): DLOG_MN and DLOG_PL give ord_p(2) for every odd p > 0; INVALID_OPERAND for p ≤ 0;
EVEN_MODULUS for even p. -/
def Obligations.LinearDlogFindsTheOrder : Prop :=
  encode .dlogMn64 = 0x10#64 ∧ encode .dlogMn128 = 0x110#64 ∧ encode .dlogPl64 = 0x11#64 ∧
  encode .dlogPl128 = 0x111#64 ∧
  ∀ (i : Instr) (w : Width) (s : State) (p : Int),
    (i, w) ∈ [(.dlogMn64, .w64), (.dlogMn128, .w128), (.dlogPl64, .w64), (.dlogPl128, .w128)] →
    opnd w s.latch.p = p →
    (0 < p → p % 2 = 1 → ∃ t, IsOrder p.toNat t ∧ exec i s = .next (afterSuccess w t false false s)) ∧
    (p ≤ 0 → exec i s = .next (afterError 2#8 false false s)) ∧
    (0 < p → p % 2 = 0 → exec i s = .next (afterError 3#8 false false s))

/-- Bounded linear stepping (R185, R186): DLOG_MN_LIM and DLOG_PL_LIM give ord_p(2) if it is below the limit, and 0
otherwise, for every signed limit; the errors are those of R180. -/
def Obligations.BoundedLinearDlogObeysTheLimit : Prop :=
  encode .dlogMnLim64 = 0x14#64 ∧ encode .dlogMnLim128 = 0x114#64 ∧ encode .dlogPlLim64 = 0x15#64 ∧
  encode .dlogPlLim128 = 0x115#64 ∧
  ∀ (i : Instr) (w : Width) (s : State) (p lim : Int),
    (i, w) ∈ [(.dlogMnLim64, .w64), (.dlogMnLim128, .w128), (.dlogPlLim64, .w64), (.dlogPlLim128, .w128)] →
    opnd w s.latch.p = p → opnd w s.latch.a = lim →
    (0 < p → p % 2 = 1 → ∃ t, IsOrder p.toNat t ∧
      exec i s = .next (afterSuccess w (if (t : Int) < lim then t else 0) false false s)) ∧
    (p ≤ 0 → exec i s = .next (afterError 2#8 false false s)) ∧
    (0 < p → p % 2 = 0 → exec i s = .next (afterError 3#8 false false s))

/-- Baby-step-giant-step (R191 to R196, R198): for every odd p > 0 and every legal budget DLOG_BG gives t = ord_p(2).
CAPPED says that m0 = ⌈⌈√p⌉ / 3⌉ exceeds the entries the budget allows; DEGRADED says that the baby steps had no hit
(m < t) and am·(p − 1) exceeds the largest signed W-bit value, where am = 2^(−m) mod p. -/
def Obligations.BsgsFindsTheOrder : Prop :=
  encode .dlogBg64 = 0x12#64 ∧ encode .dlogBg128 = 0x112#64 ∧
  ∀ (i : Instr) (w : Width) (entry native : Nat) (s : State) (p : Int),
    (i, w, entry, native) ∈ [(.dlogBg64, .w64, 16, 2 ^ 63 - 1), (.dlogBg128, .w128, 32, 2 ^ 127 - 1)] →
    opnd w s.latch.p = p →
    (0 < p → p % 2 = 1 → 32 ≤ s.latch.budget.toNat →
      ∃ c m0 m am t, IsLeast (fun x : Nat => p ≤ x * x) c ∧ IsLeast (fun q : Nat => c ≤ q * 3) m0 ∧
        m = min m0 (s.latch.budget.toNat / entry) ∧
        am < p.toNat ∧ am * 2 ^ m % p.toNat = 1 % p.toNat ∧ IsOrder p.toNat t ∧
        exec i s = .next (afterSuccess w t (decide (m < t ∧ native < am * (p.toNat - 1)))
          (decide (s.latch.budget.toNat / entry < m0)) s)) ∧
    (p ≤ 0 → exec i s = .next (afterError 2#8 false false s)) ∧
    (0 < p → p % 2 = 0 → exec i s = .next (afterError 3#8 false false s))

/-- Bounded baby-step-giant-step (R182, R197): DLOG_BG_LIM gives t = ord_p(2) if t is below the limit and 0 otherwise,
with the flags of DLOG_BG whatever the limit. -/
def Obligations.BoundedBsgsObeysTheLimit : Prop :=
  encode .dlogBgLim64 = 0x16#64 ∧ encode .dlogBgLim128 = 0x116#64 ∧
  ∀ (i : Instr) (w : Width) (entry native : Nat) (s : State) (p lim : Int),
    (i, w, entry, native) ∈ [(.dlogBgLim64, .w64, 16, 2 ^ 63 - 1), (.dlogBgLim128, .w128, 32, 2 ^ 127 - 1)] →
    opnd w s.latch.p = p → opnd w s.latch.a = lim →
    (0 < p → p % 2 = 1 → 32 ≤ s.latch.budget.toNat →
      ∃ c m0 m am t, IsLeast (fun x : Nat => p ≤ x * x) c ∧ IsLeast (fun q : Nat => c ≤ q * 3) m0 ∧
        m = min m0 (s.latch.budget.toNat / entry) ∧
        am < p.toNat ∧ am * 2 ^ m % p.toNat = 1 % p.toNat ∧ IsOrder p.toNat t ∧
        exec i s = .next (afterSuccess w (if (t : Int) < lim then t else 0)
          (decide (m < t ∧ native < am * (p.toNat - 1))) (decide (s.latch.budget.toNat / entry < m0)) s)) ∧
    (p ≤ 0 → exec i s = .next (afterError 2#8 false false s)) ∧
    (0 < p → p % 2 = 0 → exec i s = .next (afterError 3#8 false false s))

/-- The step size keeps the table within the budget, is at least 1 for a legal one, and the baby steps write at most
that many entries (R62, R191, R192). -/
def Obligations.BsgsTableFitsTheBudget : Prop :=
  ∀ (w : Width) (p budget : Nat), 0 < p → p < 2 ^ 127 → 32 ≤ budget →
    1 ≤ stepSize w p budget ∧ stepSize w p budget * (if w = .w64 then 16 else 32) ≤ budget ∧
    (babySteps p (stepSize w p budget) 0 (1 % p) []).2.length ≤ stepSize w p budget

/-! ### The primality tester -/

/-- ISPRIME, ISPRIME_W6 and ISPRIME_W30 at both widths give 1 if n is prime and 0 otherwise, negative n included, and
raise no error (R221 to R224). -/
def Obligations.TrialDivisionDecidesPrimality : Prop :=
  encode .isprime64 = 0x20#64 ∧ encode .isprime128 = 0x120#64 ∧ encode .isprimeW6n64 = 0x21#64 ∧
  encode .isprimeW6n128 = 0x121#64 ∧ encode .isprimeW30n64 = 0x22#64 ∧ encode .isprimeW30n128 = 0x122#64 ∧
  ∀ (i : Instr) (w : Width) (s : State) (n : Int),
    (i, w) ∈ [(.isprime64, .w64), (.isprime128, .w128), (.isprimeW6n64, .w64), (.isprimeW6n128, .w128),
      (.isprimeW30n64, .w64), (.isprimeW30n128, .w128)] →
    opnd w s.latch.p = n →
    exec i s = .next (afterSuccess w (if 0 ≤ n ∧ Nat.Prime n.toNat then 1 else 0) false false s)

/-- ISPRIME_C at both widths (R225): BITSET_RANGE, code 5, when the region wraps or n lies outside it, before any read;
else one byte is read: a bus error gives MEM_FAULT, code 6, and a byte that memory holds gives 1 − its bit n mod 8. The
reads are those of the completion, with none made before it; the bitset is in memory as R88 asks for. -/
def Obligations.IsprimeCReadsItsBit : Prop :=
  encode .isprimeC64 = 0x24#64 ∧ encode .isprimeC128 = 0x124#64 ∧
  ∀ (i : Instr) (w : Width) (s : State), (i, w) ∈ [(.isprimeC64, .w64), (.isprimeC128, .w128)] →
    (∀ (n : Nat) (b : Byte), s.bytesRead = [] → opnd w s.latch.p = n → RegionFits s.latch →
      n < s.latch.bsLen.toNat → BitsetIsIdempotent s → KnownByte s (bitByteAddress s.latch n) b →
      exec i s = .next (afterSuccess w (if b.toNat / 2 ^ (n % 8) % 2 = 0 then 1 else 0) false false
        (afterReads [bitByteAddress s.latch n] 0 s))) ∧
    (∀ n : Nat, s.bytesRead = [] → opnd w s.latch.p = n → RegionFits s.latch → n < s.latch.bsLen.toNat →
      ¬ InSome s.readable (bitByteAddress s.latch n) →
      exec i s = .next (afterError 6#8 false false (afterReads [bitByteAddress s.latch n] 0 s))) ∧
    (∀ n : Int, opnd w s.latch.p = n → ¬ RegionFits s.latch ∨ n < 0 ∨ (s.latch.bsLen.toNat : Int) ≤ n →
      exec i s = .next (afterError 5#8 false false s))

/-- What the cached commands do with unspecified bytes. R92 lets a byte that another agent stores while the command runs
read as any value, and R88 leaves the results open for a bitset whose reads are not idempotent. The model's choices: each
such byte is the next free value (log 1); it is used as any byte is, so that ISPRIME_C makes its one read and NEXTPRIME_C
reads up to the first clear bit, the first bus error or the limit; and where some byte of the bitset is not idempotent,
the result is the next free value below 2^(W−1) (log 18). Every other byte is the one that memory holds, written or not
(log 2). -/
def Obligations.UnspecifiedByteIsFree : Prop :=
  (∀ (i : Instr) (w : Width) (bound : Nat) (s : State) (n : Nat),
    (i, w, bound) ∈ [(.isprimeC64, .w64, 2 ^ 63), (.isprimeC128, .w128, 2 ^ 127)] → s.bytesRead = [] →
    RegionFits s.latch → opnd w s.latch.p = n → n < s.latch.bsLen.toNat →
    InSome s.readable (bitByteAddress s.latch n) →
    let c := if FreeByteAt s (bitByteAddress s.latch n) then 1 else 0
    let b := if FreeByteAt s (bitByteAddress s.latch n) then Config.freeByte s.draws
      else byteAt s.mem (bitByteAddress s.latch n)
    (BitsetIsIdempotent s →
      exec i s = .next (afterSuccess w (if b.toNat / 2 ^ (n % 8) % 2 = 0 then 1 else 0) false false
        (afterReads [bitByteAddress s.latch n] c s))) ∧
    (¬ BitsetIsIdempotent s →
      exec i s = .next (afterSuccess w ((Config.freeResult (s.draws + c)).toNat % bound) false false
        (afterReads [bitByteAddress s.latch n] (c + 1) s)))) ∧
  (∀ (i : Instr) (w : Width) (bound : Nat) (s : State) (n j : Nat) (lim : Int),
    (i, w, bound) ∈ [(.nextprimeC64, .w64, 2 ^ 63), (.nextprimeC128, .w128, 2 ^ 127)] → s.bytesRead = [] →
    RegionFits s.latch → opnd w s.latch.p = n → opnd w s.latch.a = lim → lim ≤ (s.latch.bsLen.toNat : Int) → n < j →
    (∀ k, n < k → k < j → InSome s.readable (bitByteAddress s.latch k) ∧
      (byteScanned s n k).toNat / 2 ^ (k % 8) % 2 = 1) →
    ((j : Int) < lim → InSome s.readable (bitByteAddress s.latch j) →
      (byteScanned s n j).toNat / 2 ^ (j % 8) % 2 = 0 →
      (BitsetIsIdempotent s → exec i s = .next (afterSuccess w j false false
        (afterReads (scanned s.latch n j) (freeScanned s n j) s))) ∧
      (¬ BitsetIsIdempotent s → exec i s = .next (afterSuccess w
        ((Config.freeResult (s.draws + freeScanned s n j)).toNat % bound) false false
        (afterReads (scanned s.latch n j) (freeScanned s n j + 1) s)))) ∧
    ((j : Int) < lim → ¬ InSome s.readable (bitByteAddress s.latch j) →
      exec i s = .next (afterError 6#8 false false
        (afterReads (scanned s.latch n j) (freeScanned s n (j - 1)) s))) ∧
    (lim = (j : Int) ∨ (lim < (j : Int) ∧ j = n + 1) →
      (BitsetIsIdempotent s → exec i s = .next (afterSuccess w 0 false false
        (afterReads (scanned s.latch n (j - 1)) (freeScanned s n (j - 1)) s))) ∧
      (¬ BitsetIsIdempotent s → exec i s = .next (afterSuccess w
        ((Config.freeResult (s.draws + freeScanned s n (j - 1))).toNat % bound) false false
        (afterReads (scanned s.latch n (j - 1)) (freeScanned s n (j - 1) + 1) s)))))

/-- NEXTPRIME_C at both widths (R226, R227): the first index above n and below the limit whose bit is 0, or 0 when
there is none, with one read per index in rising order; a bus error on the way gives MEM_FAULT at that read;
BITSET_RANGE when the region wraps, n < 0 or the limit exceeds BSLEN, before any read. The reads are those of the
completion, with none made before it; the bitset is in memory as R88 asks for. -/
def Obligations.NextprimeCFindsTheNextClearBit : Prop :=
  encode .nextprimeC64 = 0x25#64 ∧ encode .nextprimeC128 = 0x125#64 ∧
  ∀ (i : Instr) (w : Width) (s : State), (i, w) ∈ [(.nextprimeC64, .w64), (.nextprimeC128, .w128)] →
    (∀ (n j : Nat) (lim : Int), s.bytesRead = [] → opnd w s.latch.p = n → opnd w s.latch.a = lim →
      RegionFits s.latch → lim ≤ (s.latch.bsLen.toNat : Int) → n < j →
      (∀ k, n < k → k < j → ∃ b, KnownByte s (bitByteAddress s.latch k) b ∧ b.toNat / 2 ^ (k % 8) % 2 = 1) →
      ((j : Int) < lim → BitsetIsIdempotent s →
        (∃ b, KnownByte s (bitByteAddress s.latch j) b ∧ b.toNat / 2 ^ (j % 8) % 2 = 0) →
        exec i s = .next (afterSuccess w j false false (afterReads (scanned s.latch n j) 0 s))) ∧
      ((j : Int) < lim → ¬ InSome s.readable (bitByteAddress s.latch j) →
        exec i s = .next (afterError 6#8 false false (afterReads (scanned s.latch n j) 0 s))) ∧
      (lim = (j : Int) ∨ (lim < (j : Int) ∧ j = n + 1) → BitsetIsIdempotent s →
        exec i s = .next (afterSuccess w 0 false false (afterReads (scanned s.latch n (j - 1)) 0 s)))) ∧
    (∀ n lim : Int, opnd w s.latch.p = n → opnd w s.latch.a = lim →
      ¬ RegionFits s.latch ∨ n < 0 ∨ (s.latch.bsLen.toNat : Int) < lim →
      exec i s = .next (afterError 5#8 false false s))

/-! ### The invariant of the machine -/

/-- Every step keeps the invariant. Some of its clauses are the model's choices, as the docstring of `Inv` marks them
(log 2, 6, 7 and 13). -/
def Obligations.StepKeepsTheInvariant : Prop := ∀ s t : State, Inv s → step s = .next t → Inv t

/-- The state after reset meets the invariant. That no working value, table entry, concurrent store or answer to a read
is there at reset is the model's choice (log 6, 7 and 13), since R280 leaves the first two unspecified. -/
def Obligations.ResetMeetsTheInvariant : Prop := Inv State.reset

/-- From a state with a legal budget and no EXHAUSTED in ERRCODE no step reports EXHAUSTED (R198, R259). -/
def Obligations.NoStepReportsExhausted : Prop :=
  ∀ s t : State, Inv s → s.errcode ≠ 7#8 → step s = .next t → t.errcode ≠ 7#8

/-- The platform's parameters never change: which addresses are readable, and which reads are not idempotent. -/
def Obligations.PlatformParametersAreFixed : Prop :=
  ∀ s t : State, step s = .next t → t.readable = s.readable ∧ t.volatile = s.volatile

/-! ### Memory reads as events of their own -/

/-- A read of the running cached command that is an event of its own (R90, R91): with the answers to its first reads on
hand, none of which ends the scan, it reads the byte of the next bit. Where that address is not readable it gets a bus
error; where R88 or R92 leave the byte unspecified it gets the next free byte; else the byte that memory holds. A store
still to come before the completion counts as concurrent too, which is the model's reading of R92 (log 13). Nothing else
changes. -/
def Obligations.BlockReadTakesTheNextByte : Prop :=
  ∀ (i : Instr) (w : Width) (s : State) (rest : List Event) (n first : Nat) (last : Int) (bs : List Byte),
    ((i, w) ∈ [(.isprimeC64, .w64), (.isprimeC128, .w128)] ∧ first = n ∧ last = n ∧ n < s.latch.bsLen.toNat) ∨
    ((i, w) ∈ [(.nextprimeC64, .w64), (.nextprimeC128, .w128)] ∧ first = n + 1 ∧ last + 1 = opnd w s.latch.a ∧
      last < (s.latch.bsLen.toNat : Int)) →
    s.status.busy = true → decode s.latch.cmd = .ok i → s.inputs = .blockRead :: rest → RegionFits s.latch →
    opnd w s.latch.p = n → s.bytesRead = bs.map some → ((first + bs.length : Nat) : Int) ≤ last →
    (∀ x b, bs[x]? = some b → b.toNat / 2 ^ ((first + x) % 8) % 2 = 1) →
    let a := bitByteAddress s.latch (first + bs.length)
    let t := { s with inputs := rest, reads := s.reads ++ [a] }
    (¬ InSome s.readable a → step s = .next { t with bytesRead := s.bytesRead ++ [none] }) ∧
    (InSome s.readable a → FreeByteAt s a ∨ a ∈ storesToCome rest →
      step s = .next { t with bytesRead := s.bytesRead ++ [some (Config.freeByte s.draws)], draws := s.draws + 1 }) ∧
    (InSome s.readable a → ¬ FreeByteAt s a → a ∉ storesToCome rest →
      step s = .next { t with bytesRead := s.bytesRead ++ [some (byteAt s.mem a)] })

/-- When the running command makes a read as an event of its own, and no agent stores to memory before its completion, it
completes as if that read had been made at the completion. Where memory holds the byte this is R91's; that a read left
over is made in the completion step is the model's choice (log 7), and so is it that an unspecified byte (R88, R92) is the
same free value early or late, since each draw takes the next one of one count (log 1). -/
def Obligations.ReadingEarlyChangesNoResult : Prop :=
  ∀ (i : Instr) (s t : State) (rest : List Event), s.status.busy = true → decode s.latch.cmd = .ok i →
    s.inputs = .blockRead :: rest → storesToCome rest = [] → step s = .next t →
    exec i t = exec i { s with inputs := rest }
end

