-- ==== Sys2Proof/Laws/State.lean ====
section
/-! SUPPORT. One lemma per field per update of the state, each true by unfolding. -/

namespace Sys2Proof.Machine

@[simp] theorem respond_ie (r : Response) (s : State) : (respond r s).ie = s.ie := rfl
@[simp] theorem respond_status (r : Response) (s : State) : (respond r s).status = s.status := rfl
@[simp] theorem respond_errcode (r : Response) (s : State) : (respond r s).errcode = s.errcode := rfl
@[simp] theorem respond_tblBudget (r : Response) (s : State) : (respond r s).tblBudget = s.tblBudget := rfl
@[simp] theorem respond_bsBase (r : Response) (s : State) : (respond r s).bsBase = s.bsBase := rfl
@[simp] theorem respond_bsLen (r : Response) (s : State) : (respond r s).bsLen = s.bsLen := rfl
@[simp] theorem respond_pLo (r : Response) (s : State) : (respond r s).pLo = s.pLo := rfl
@[simp] theorem respond_pHi (r : Response) (s : State) : (respond r s).pHi = s.pHi := rfl
@[simp] theorem respond_aLo (r : Response) (s : State) : (respond r s).aLo = s.aLo := rfl
@[simp] theorem respond_aHi (r : Response) (s : State) : (respond r s).aHi = s.aHi := rfl
@[simp] theorem respond_bLo (r : Response) (s : State) : (respond r s).bLo = s.bLo := rfl
@[simp] theorem respond_bHi (r : Response) (s : State) : (respond r s).bHi = s.bHi := rfl
@[simp] theorem respond_rLo (r : Response) (s : State) : (respond r s).rLo = s.rLo := rfl
@[simp] theorem respond_rHi (r : Response) (s : State) : (respond r s).rHi = s.rHi := rfl
@[simp] theorem respond_latch (r : Response) (s : State) : (respond r s).latch = s.latch := rfl
@[simp] theorem respond_work (r : Response) (s : State) : (respond r s).work = s.work := rfl
@[simp] theorem respond_table (r : Response) (s : State) : (respond r s).table = s.table := rfl
@[simp] theorem respond_mem (r : Response) (s : State) : (respond r s).mem = s.mem := rfl
@[simp] theorem respond_readable (r : Response) (s : State) : (respond r s).readable = s.readable := rfl
@[simp] theorem respond_volatile (r : Response) (s : State) : (respond r s).volatile = s.volatile := rfl
@[simp] theorem respond_touched (r : Response) (s : State) : (respond r s).touched = s.touched := rfl
@[simp] theorem respond_bytesRead (r : Response) (s : State) : (respond r s).bytesRead = s.bytesRead := rfl
@[simp] theorem respond_inputs (r : Response) (s : State) : (respond r s).inputs = s.inputs := rfl
@[simp] theorem respond_responses (r : Response) (s : State) : (respond r s).responses = s.responses ++ [r] := rfl
@[simp] theorem respond_reads (r : Response) (s : State) : (respond r s).reads = s.reads := rfl
@[simp] theorem respond_draws (r : Response) (s : State) : (respond r s).draws = s.draws := rfl

@[simp] theorem logRead_ie (a : Nat) (s : State) : (logRead a s).ie = s.ie := rfl
@[simp] theorem logRead_status (a : Nat) (s : State) : (logRead a s).status = s.status := rfl
@[simp] theorem logRead_errcode (a : Nat) (s : State) : (logRead a s).errcode = s.errcode := rfl
@[simp] theorem logRead_tblBudget (a : Nat) (s : State) : (logRead a s).tblBudget = s.tblBudget := rfl
@[simp] theorem logRead_bsBase (a : Nat) (s : State) : (logRead a s).bsBase = s.bsBase := rfl
@[simp] theorem logRead_bsLen (a : Nat) (s : State) : (logRead a s).bsLen = s.bsLen := rfl
@[simp] theorem logRead_pLo (a : Nat) (s : State) : (logRead a s).pLo = s.pLo := rfl
@[simp] theorem logRead_pHi (a : Nat) (s : State) : (logRead a s).pHi = s.pHi := rfl
@[simp] theorem logRead_aLo (a : Nat) (s : State) : (logRead a s).aLo = s.aLo := rfl
@[simp] theorem logRead_aHi (a : Nat) (s : State) : (logRead a s).aHi = s.aHi := rfl
@[simp] theorem logRead_bLo (a : Nat) (s : State) : (logRead a s).bLo = s.bLo := rfl
@[simp] theorem logRead_bHi (a : Nat) (s : State) : (logRead a s).bHi = s.bHi := rfl
@[simp] theorem logRead_rLo (a : Nat) (s : State) : (logRead a s).rLo = s.rLo := rfl
@[simp] theorem logRead_rHi (a : Nat) (s : State) : (logRead a s).rHi = s.rHi := rfl
@[simp] theorem logRead_latch (a : Nat) (s : State) : (logRead a s).latch = s.latch := rfl
@[simp] theorem logRead_work (a : Nat) (s : State) : (logRead a s).work = s.work := rfl
@[simp] theorem logRead_table (a : Nat) (s : State) : (logRead a s).table = s.table := rfl
@[simp] theorem logRead_mem (a : Nat) (s : State) : (logRead a s).mem = s.mem := rfl
@[simp] theorem logRead_readable (a : Nat) (s : State) : (logRead a s).readable = s.readable := rfl
@[simp] theorem logRead_volatile (a : Nat) (s : State) : (logRead a s).volatile = s.volatile := rfl
@[simp] theorem logRead_touched (a : Nat) (s : State) : (logRead a s).touched = s.touched := rfl
@[simp] theorem logRead_bytesRead (a : Nat) (s : State) : (logRead a s).bytesRead = s.bytesRead := rfl
@[simp] theorem logRead_inputs (a : Nat) (s : State) : (logRead a s).inputs = s.inputs := rfl
@[simp] theorem logRead_responses (a : Nat) (s : State) : (logRead a s).responses = s.responses := rfl
@[simp] theorem logRead_reads (a : Nat) (s : State) : (logRead a s).reads = s.reads ++ [a] := rfl
@[simp] theorem logRead_draws (a : Nat) (s : State) : (logRead a s).draws = s.draws := rfl

@[simp] theorem holdRun_ie (x : Run) (s : State) : (holdRun x s).ie = s.ie := rfl
@[simp] theorem holdRun_status (x : Run) (s : State) : (holdRun x s).status = s.status := rfl
@[simp] theorem holdRun_errcode (x : Run) (s : State) : (holdRun x s).errcode = s.errcode := rfl
@[simp] theorem holdRun_tblBudget (x : Run) (s : State) : (holdRun x s).tblBudget = s.tblBudget := rfl
@[simp] theorem holdRun_bsBase (x : Run) (s : State) : (holdRun x s).bsBase = s.bsBase := rfl
@[simp] theorem holdRun_bsLen (x : Run) (s : State) : (holdRun x s).bsLen = s.bsLen := rfl
@[simp] theorem holdRun_pLo (x : Run) (s : State) : (holdRun x s).pLo = s.pLo := rfl
@[simp] theorem holdRun_pHi (x : Run) (s : State) : (holdRun x s).pHi = s.pHi := rfl
@[simp] theorem holdRun_aLo (x : Run) (s : State) : (holdRun x s).aLo = s.aLo := rfl
@[simp] theorem holdRun_aHi (x : Run) (s : State) : (holdRun x s).aHi = s.aHi := rfl
@[simp] theorem holdRun_bLo (x : Run) (s : State) : (holdRun x s).bLo = s.bLo := rfl
@[simp] theorem holdRun_bHi (x : Run) (s : State) : (holdRun x s).bHi = s.bHi := rfl
@[simp] theorem holdRun_rLo (x : Run) (s : State) : (holdRun x s).rLo = s.rLo := rfl
@[simp] theorem holdRun_rHi (x : Run) (s : State) : (holdRun x s).rHi = s.rHi := rfl
@[simp] theorem holdRun_latch (x : Run) (s : State) : (holdRun x s).latch = s.latch := rfl
@[simp] theorem holdRun_work (x : Run) (s : State) : (holdRun x s).work = some x.work := rfl
@[simp] theorem holdRun_table (x : Run) (s : State) : (holdRun x s).table = x.table := rfl
@[simp] theorem holdRun_mem (x : Run) (s : State) : (holdRun x s).mem = s.mem := rfl
@[simp] theorem holdRun_readable (x : Run) (s : State) : (holdRun x s).readable = s.readable := rfl
@[simp] theorem holdRun_volatile (x : Run) (s : State) : (holdRun x s).volatile = s.volatile := rfl
@[simp] theorem holdRun_touched (x : Run) (s : State) : (holdRun x s).touched = s.touched := rfl
@[simp] theorem holdRun_bytesRead (x : Run) (s : State) : (holdRun x s).bytesRead = s.bytesRead := rfl
@[simp] theorem holdRun_inputs (x : Run) (s : State) : (holdRun x s).inputs = s.inputs := rfl
@[simp] theorem holdRun_responses (x : Run) (s : State) : (holdRun x s).responses = s.responses := rfl
@[simp] theorem holdRun_reads (x : Run) (s : State) : (holdRun x s).reads = s.reads := rfl
@[simp] theorem holdRun_draws (x : Run) (s : State) : (holdRun x s).draws = s.draws := rfl

@[simp] theorem endRun_ie (s : State) : (endRun s).ie = s.ie := rfl
@[simp] theorem endRun_status (s : State) : (endRun s).status = s.status := rfl
@[simp] theorem endRun_errcode (s : State) : (endRun s).errcode = s.errcode := rfl
@[simp] theorem endRun_tblBudget (s : State) : (endRun s).tblBudget = s.tblBudget := rfl
@[simp] theorem endRun_bsBase (s : State) : (endRun s).bsBase = s.bsBase := rfl
@[simp] theorem endRun_bsLen (s : State) : (endRun s).bsLen = s.bsLen := rfl
@[simp] theorem endRun_pLo (s : State) : (endRun s).pLo = s.pLo := rfl
@[simp] theorem endRun_pHi (s : State) : (endRun s).pHi = s.pHi := rfl
@[simp] theorem endRun_aLo (s : State) : (endRun s).aLo = s.aLo := rfl
@[simp] theorem endRun_aHi (s : State) : (endRun s).aHi = s.aHi := rfl
@[simp] theorem endRun_bLo (s : State) : (endRun s).bLo = s.bLo := rfl
@[simp] theorem endRun_bHi (s : State) : (endRun s).bHi = s.bHi := rfl
@[simp] theorem endRun_rLo (s : State) : (endRun s).rLo = s.rLo := rfl
@[simp] theorem endRun_rHi (s : State) : (endRun s).rHi = s.rHi := rfl
@[simp] theorem endRun_latch (s : State) : (endRun s).latch = s.latch := rfl
@[simp] theorem endRun_work (s : State) : (endRun s).work = none := rfl
@[simp] theorem endRun_table (s : State) : (endRun s).table = [] := rfl
@[simp] theorem endRun_mem (s : State) : (endRun s).mem = s.mem := rfl
@[simp] theorem endRun_readable (s : State) : (endRun s).readable = s.readable := rfl
@[simp] theorem endRun_volatile (s : State) : (endRun s).volatile = s.volatile := rfl
@[simp] theorem endRun_touched (s : State) : (endRun s).touched = [] := rfl
@[simp] theorem endRun_bytesRead (s : State) : (endRun s).bytesRead = [] := rfl
@[simp] theorem endRun_inputs (s : State) : (endRun s).inputs = s.inputs := rfl
@[simp] theorem endRun_responses (s : State) : (endRun s).responses = s.responses := rfl
@[simp] theorem endRun_reads (s : State) : (endRun s).reads = s.reads := rfl
@[simp] theorem endRun_draws (s : State) : (endRun s).draws = s.draws := rfl

@[simp] theorem completeSuccess_ie (w : Width) (r : Nat) (deg cap : Bool) (s : State) : (completeSuccess w r deg cap s).ie = s.ie := rfl
@[simp] theorem completeSuccess_status (w : Width) (r : Nat) (deg cap : Bool) (s : State) : (completeSuccess w r deg cap s).status = statusAfterSuccess deg cap s.status := rfl
@[simp] theorem completeSuccess_errcode (w : Width) (r : Nat) (deg cap : Bool) (s : State) : (completeSuccess w r deg cap s).errcode = s.errcode := rfl
@[simp] theorem completeSuccess_tblBudget (w : Width) (r : Nat) (deg cap : Bool) (s : State) : (completeSuccess w r deg cap s).tblBudget = s.tblBudget := rfl
@[simp] theorem completeSuccess_bsBase (w : Width) (r : Nat) (deg cap : Bool) (s : State) : (completeSuccess w r deg cap s).bsBase = s.bsBase := rfl
@[simp] theorem completeSuccess_bsLen (w : Width) (r : Nat) (deg cap : Bool) (s : State) : (completeSuccess w r deg cap s).bsLen = s.bsLen := rfl
@[simp] theorem completeSuccess_pLo (w : Width) (r : Nat) (deg cap : Bool) (s : State) : (completeSuccess w r deg cap s).pLo = s.pLo := rfl
@[simp] theorem completeSuccess_pHi (w : Width) (r : Nat) (deg cap : Bool) (s : State) : (completeSuccess w r deg cap s).pHi = s.pHi := rfl
@[simp] theorem completeSuccess_aLo (w : Width) (r : Nat) (deg cap : Bool) (s : State) : (completeSuccess w r deg cap s).aLo = s.aLo := rfl
@[simp] theorem completeSuccess_aHi (w : Width) (r : Nat) (deg cap : Bool) (s : State) : (completeSuccess w r deg cap s).aHi = s.aHi := rfl
@[simp] theorem completeSuccess_bLo (w : Width) (r : Nat) (deg cap : Bool) (s : State) : (completeSuccess w r deg cap s).bLo = s.bLo := rfl
@[simp] theorem completeSuccess_bHi (w : Width) (r : Nat) (deg cap : Bool) (s : State) : (completeSuccess w r deg cap s).bHi = s.bHi := rfl
@[simp] theorem completeSuccess_rLo (w : Width) (r : Nat) (deg cap : Bool) (s : State) : (completeSuccess w r deg cap s).rLo = BitVec.ofNat 64 (r % 2 ^ 64) := rfl
@[simp] theorem completeSuccess_rHi (w : Width) (r : Nat) (deg cap : Bool) (s : State) : (completeSuccess w r deg cap s).rHi = (match w with | .w64 => 0#64 | .w128 => BitVec.ofNat 64 (r / 2 ^ 64)) := rfl
@[simp] theorem completeSuccess_latch (w : Width) (r : Nat) (deg cap : Bool) (s : State) : (completeSuccess w r deg cap s).latch = s.latch := rfl
@[simp] theorem completeSuccess_work (w : Width) (r : Nat) (deg cap : Bool) (s : State) : (completeSuccess w r deg cap s).work = none := rfl
@[simp] theorem completeSuccess_table (w : Width) (r : Nat) (deg cap : Bool) (s : State) : (completeSuccess w r deg cap s).table = [] := rfl
@[simp] theorem completeSuccess_mem (w : Width) (r : Nat) (deg cap : Bool) (s : State) : (completeSuccess w r deg cap s).mem = s.mem := rfl
@[simp] theorem completeSuccess_readable (w : Width) (r : Nat) (deg cap : Bool) (s : State) : (completeSuccess w r deg cap s).readable = s.readable := rfl
@[simp] theorem completeSuccess_volatile (w : Width) (r : Nat) (deg cap : Bool) (s : State) : (completeSuccess w r deg cap s).volatile = s.volatile := rfl
@[simp] theorem completeSuccess_touched (w : Width) (r : Nat) (deg cap : Bool) (s : State) : (completeSuccess w r deg cap s).touched = [] := rfl
@[simp] theorem completeSuccess_bytesRead (w : Width) (r : Nat) (deg cap : Bool) (s : State) : (completeSuccess w r deg cap s).bytesRead = [] := rfl
@[simp] theorem completeSuccess_inputs (w : Width) (r : Nat) (deg cap : Bool) (s : State) : (completeSuccess w r deg cap s).inputs = s.inputs := rfl
@[simp] theorem completeSuccess_responses (w : Width) (r : Nat) (deg cap : Bool) (s : State) : (completeSuccess w r deg cap s).responses = s.responses := rfl
@[simp] theorem completeSuccess_reads (w : Width) (r : Nat) (deg cap : Bool) (s : State) : (completeSuccess w r deg cap s).reads = s.reads := rfl
@[simp] theorem completeSuccess_draws (w : Width) (r : Nat) (deg cap : Bool) (s : State) : (completeSuccess w r deg cap s).draws = s.draws := rfl

@[simp] theorem completeError_ie (e : ErrorCode) (deg cap : Bool) (s : State) : (completeError e deg cap s).ie = s.ie := rfl
@[simp] theorem completeError_status (e : ErrorCode) (deg cap : Bool) (s : State) : (completeError e deg cap s).status = statusAfterError deg cap s.status := rfl
@[simp] theorem completeError_errcode (e : ErrorCode) (deg cap : Bool) (s : State) : (completeError e deg cap s).errcode = errorByte e := rfl
@[simp] theorem completeError_tblBudget (e : ErrorCode) (deg cap : Bool) (s : State) : (completeError e deg cap s).tblBudget = s.tblBudget := rfl
@[simp] theorem completeError_bsBase (e : ErrorCode) (deg cap : Bool) (s : State) : (completeError e deg cap s).bsBase = s.bsBase := rfl
@[simp] theorem completeError_bsLen (e : ErrorCode) (deg cap : Bool) (s : State) : (completeError e deg cap s).bsLen = s.bsLen := rfl
@[simp] theorem completeError_pLo (e : ErrorCode) (deg cap : Bool) (s : State) : (completeError e deg cap s).pLo = s.pLo := rfl
@[simp] theorem completeError_pHi (e : ErrorCode) (deg cap : Bool) (s : State) : (completeError e deg cap s).pHi = s.pHi := rfl
@[simp] theorem completeError_aLo (e : ErrorCode) (deg cap : Bool) (s : State) : (completeError e deg cap s).aLo = s.aLo := rfl
@[simp] theorem completeError_aHi (e : ErrorCode) (deg cap : Bool) (s : State) : (completeError e deg cap s).aHi = s.aHi := rfl
@[simp] theorem completeError_bLo (e : ErrorCode) (deg cap : Bool) (s : State) : (completeError e deg cap s).bLo = s.bLo := rfl
@[simp] theorem completeError_bHi (e : ErrorCode) (deg cap : Bool) (s : State) : (completeError e deg cap s).bHi = s.bHi := rfl
@[simp] theorem completeError_rLo (e : ErrorCode) (deg cap : Bool) (s : State) : (completeError e deg cap s).rLo = s.rLo := rfl
@[simp] theorem completeError_rHi (e : ErrorCode) (deg cap : Bool) (s : State) : (completeError e deg cap s).rHi = s.rHi := rfl
@[simp] theorem completeError_latch (e : ErrorCode) (deg cap : Bool) (s : State) : (completeError e deg cap s).latch = s.latch := rfl
@[simp] theorem completeError_work (e : ErrorCode) (deg cap : Bool) (s : State) : (completeError e deg cap s).work = none := rfl
@[simp] theorem completeError_table (e : ErrorCode) (deg cap : Bool) (s : State) : (completeError e deg cap s).table = [] := rfl
@[simp] theorem completeError_mem (e : ErrorCode) (deg cap : Bool) (s : State) : (completeError e deg cap s).mem = s.mem := rfl
@[simp] theorem completeError_readable (e : ErrorCode) (deg cap : Bool) (s : State) : (completeError e deg cap s).readable = s.readable := rfl
@[simp] theorem completeError_volatile (e : ErrorCode) (deg cap : Bool) (s : State) : (completeError e deg cap s).volatile = s.volatile := rfl
@[simp] theorem completeError_touched (e : ErrorCode) (deg cap : Bool) (s : State) : (completeError e deg cap s).touched = [] := rfl
@[simp] theorem completeError_bytesRead (e : ErrorCode) (deg cap : Bool) (s : State) : (completeError e deg cap s).bytesRead = [] := rfl
@[simp] theorem completeError_inputs (e : ErrorCode) (deg cap : Bool) (s : State) : (completeError e deg cap s).inputs = s.inputs := rfl
@[simp] theorem completeError_responses (e : ErrorCode) (deg cap : Bool) (s : State) : (completeError e deg cap s).responses = s.responses := rfl
@[simp] theorem completeError_reads (e : ErrorCode) (deg cap : Bool) (s : State) : (completeError e deg cap s).reads = s.reads := rfl
@[simp] theorem completeError_draws (e : ErrorCode) (deg cap : Bool) (s : State) : (completeError e deg cap s).draws = s.draws := rfl

@[simp] theorem latchCommand_ie (c : Word) (s : State) : (latchCommand c s).ie = s.ie := rfl
@[simp] theorem latchCommand_status (c : Word) (s : State) : (latchCommand c s).status = statusAfterIssue s.status := rfl
@[simp] theorem latchCommand_errcode (c : Word) (s : State) : (latchCommand c s).errcode = 0 := rfl
@[simp] theorem latchCommand_tblBudget (c : Word) (s : State) : (latchCommand c s).tblBudget = s.tblBudget := rfl
@[simp] theorem latchCommand_bsBase (c : Word) (s : State) : (latchCommand c s).bsBase = s.bsBase := rfl
@[simp] theorem latchCommand_bsLen (c : Word) (s : State) : (latchCommand c s).bsLen = s.bsLen := rfl
@[simp] theorem latchCommand_pLo (c : Word) (s : State) : (latchCommand c s).pLo = s.pLo := rfl
@[simp] theorem latchCommand_pHi (c : Word) (s : State) : (latchCommand c s).pHi = s.pHi := rfl
@[simp] theorem latchCommand_aLo (c : Word) (s : State) : (latchCommand c s).aLo = s.aLo := rfl
@[simp] theorem latchCommand_aHi (c : Word) (s : State) : (latchCommand c s).aHi = s.aHi := rfl
@[simp] theorem latchCommand_bLo (c : Word) (s : State) : (latchCommand c s).bLo = s.bLo := rfl
@[simp] theorem latchCommand_bHi (c : Word) (s : State) : (latchCommand c s).bHi = s.bHi := rfl
@[simp] theorem latchCommand_rLo (c : Word) (s : State) : (latchCommand c s).rLo = s.rLo := rfl
@[simp] theorem latchCommand_rHi (c : Word) (s : State) : (latchCommand c s).rHi = s.rHi := rfl
@[simp] theorem latchCommand_latch (c : Word) (s : State) : (latchCommand c s).latch = ⟨c, s.pHi ++ s.pLo, s.aHi ++ s.aLo, s.bHi ++ s.bLo, s.tblBudget, s.bsBase, s.bsLen⟩ := rfl
@[simp] theorem latchCommand_work (c : Word) (s : State) : (latchCommand c s).work = s.work := rfl
@[simp] theorem latchCommand_table (c : Word) (s : State) : (latchCommand c s).table = s.table := rfl
@[simp] theorem latchCommand_mem (c : Word) (s : State) : (latchCommand c s).mem = s.mem := rfl
@[simp] theorem latchCommand_readable (c : Word) (s : State) : (latchCommand c s).readable = s.readable := rfl
@[simp] theorem latchCommand_volatile (c : Word) (s : State) : (latchCommand c s).volatile = s.volatile := rfl
@[simp] theorem latchCommand_touched (c : Word) (s : State) : (latchCommand c s).touched = [] := rfl
@[simp] theorem latchCommand_bytesRead (c : Word) (s : State) : (latchCommand c s).bytesRead = [] := rfl
@[simp] theorem latchCommand_inputs (c : Word) (s : State) : (latchCommand c s).inputs = s.inputs := rfl
@[simp] theorem latchCommand_responses (c : Word) (s : State) : (latchCommand c s).responses = s.responses := rfl
@[simp] theorem latchCommand_reads (c : Word) (s : State) : (latchCommand c s).reads = s.reads := rfl
@[simp] theorem latchCommand_draws (c : Word) (s : State) : (latchCommand c s).draws = s.draws := rfl

@[simp] theorem memStore_ie (a : Addr) (b : Byte) (s : State) : (memStore a b s).ie = s.ie := rfl
@[simp] theorem memStore_status (a : Addr) (b : Byte) (s : State) : (memStore a b s).status = s.status := rfl
@[simp] theorem memStore_errcode (a : Addr) (b : Byte) (s : State) : (memStore a b s).errcode = s.errcode := rfl
@[simp] theorem memStore_tblBudget (a : Addr) (b : Byte) (s : State) : (memStore a b s).tblBudget = s.tblBudget := rfl
@[simp] theorem memStore_bsBase (a : Addr) (b : Byte) (s : State) : (memStore a b s).bsBase = s.bsBase := rfl
@[simp] theorem memStore_bsLen (a : Addr) (b : Byte) (s : State) : (memStore a b s).bsLen = s.bsLen := rfl
@[simp] theorem memStore_pLo (a : Addr) (b : Byte) (s : State) : (memStore a b s).pLo = s.pLo := rfl
@[simp] theorem memStore_pHi (a : Addr) (b : Byte) (s : State) : (memStore a b s).pHi = s.pHi := rfl
@[simp] theorem memStore_aLo (a : Addr) (b : Byte) (s : State) : (memStore a b s).aLo = s.aLo := rfl
@[simp] theorem memStore_aHi (a : Addr) (b : Byte) (s : State) : (memStore a b s).aHi = s.aHi := rfl
@[simp] theorem memStore_bLo (a : Addr) (b : Byte) (s : State) : (memStore a b s).bLo = s.bLo := rfl
@[simp] theorem memStore_bHi (a : Addr) (b : Byte) (s : State) : (memStore a b s).bHi = s.bHi := rfl
@[simp] theorem memStore_rLo (a : Addr) (b : Byte) (s : State) : (memStore a b s).rLo = s.rLo := rfl
@[simp] theorem memStore_rHi (a : Addr) (b : Byte) (s : State) : (memStore a b s).rHi = s.rHi := rfl
@[simp] theorem memStore_latch (a : Addr) (b : Byte) (s : State) : (memStore a b s).latch = s.latch := rfl
@[simp] theorem memStore_work (a : Addr) (b : Byte) (s : State) : (memStore a b s).work = s.work := rfl
@[simp] theorem memStore_table (a : Addr) (b : Byte) (s : State) : (memStore a b s).table = s.table := rfl
@[simp] theorem memStore_mem (a : Addr) (b : Byte) (s : State) : (memStore a b s).mem = (if inRanges s.readable a.toNat && !inRanges s.volatile a.toNat then memInsert s.mem a.toNat b else s.mem) := rfl
@[simp] theorem memStore_readable (a : Addr) (b : Byte) (s : State) : (memStore a b s).readable = s.readable := rfl
@[simp] theorem memStore_volatile (a : Addr) (b : Byte) (s : State) : (memStore a b s).volatile = s.volatile := rfl
@[simp] theorem memStore_touched (a : Addr) (b : Byte) (s : State) : (memStore a b s).touched = (if s.status.busy then touch a.toNat s.touched else s.touched) := rfl
@[simp] theorem memStore_bytesRead (a : Addr) (b : Byte) (s : State) : (memStore a b s).bytesRead = s.bytesRead := rfl
@[simp] theorem memStore_inputs (a : Addr) (b : Byte) (s : State) : (memStore a b s).inputs = s.inputs := rfl
@[simp] theorem memStore_responses (a : Addr) (b : Byte) (s : State) : (memStore a b s).responses = s.responses := rfl
@[simp] theorem memStore_reads (a : Addr) (b : Byte) (s : State) : (memStore a b s).reads = s.reads := rfl
@[simp] theorem memStore_draws (a : Addr) (b : Byte) (s : State) : (memStore a b s).draws = s.draws := rfl

@[simp] theorem resetBlock_ie (s : State) : (resetBlock s).ie = State.reset.ie := rfl
@[simp] theorem resetBlock_status (s : State) : (resetBlock s).status = State.reset.status := rfl
@[simp] theorem resetBlock_errcode (s : State) : (resetBlock s).errcode = State.reset.errcode := rfl
@[simp] theorem resetBlock_tblBudget (s : State) : (resetBlock s).tblBudget = State.reset.tblBudget := rfl
@[simp] theorem resetBlock_bsBase (s : State) : (resetBlock s).bsBase = State.reset.bsBase := rfl
@[simp] theorem resetBlock_bsLen (s : State) : (resetBlock s).bsLen = State.reset.bsLen := rfl
@[simp] theorem resetBlock_pLo (s : State) : (resetBlock s).pLo = State.reset.pLo := rfl
@[simp] theorem resetBlock_pHi (s : State) : (resetBlock s).pHi = State.reset.pHi := rfl
@[simp] theorem resetBlock_aLo (s : State) : (resetBlock s).aLo = State.reset.aLo := rfl
@[simp] theorem resetBlock_aHi (s : State) : (resetBlock s).aHi = State.reset.aHi := rfl
@[simp] theorem resetBlock_bLo (s : State) : (resetBlock s).bLo = State.reset.bLo := rfl
@[simp] theorem resetBlock_bHi (s : State) : (resetBlock s).bHi = State.reset.bHi := rfl
@[simp] theorem resetBlock_rLo (s : State) : (resetBlock s).rLo = State.reset.rLo := rfl
@[simp] theorem resetBlock_rHi (s : State) : (resetBlock s).rHi = State.reset.rHi := rfl
@[simp] theorem resetBlock_latch (s : State) : (resetBlock s).latch = State.reset.latch := rfl
@[simp] theorem resetBlock_work (s : State) : (resetBlock s).work = State.reset.work := rfl
@[simp] theorem resetBlock_table (s : State) : (resetBlock s).table = State.reset.table := rfl
@[simp] theorem resetBlock_mem (s : State) : (resetBlock s).mem = s.mem := rfl
@[simp] theorem resetBlock_readable (s : State) : (resetBlock s).readable = s.readable := rfl
@[simp] theorem resetBlock_volatile (s : State) : (resetBlock s).volatile = s.volatile := rfl
@[simp] theorem resetBlock_touched (s : State) : (resetBlock s).touched = State.reset.touched := rfl
@[simp] theorem resetBlock_bytesRead (s : State) : (resetBlock s).bytesRead = State.reset.bytesRead := rfl
@[simp] theorem resetBlock_inputs (s : State) : (resetBlock s).inputs = s.inputs := rfl
@[simp] theorem resetBlock_responses (s : State) : (resetBlock s).responses = s.responses := rfl
@[simp] theorem resetBlock_reads (s : State) : (resetBlock s).reads = s.reads := rfl
@[simp] theorem resetBlock_draws (s : State) : (resetBlock s).draws = s.draws := rfl

@[simp] theorem statusAfterIssue_busy (t : Status) : (statusAfterIssue t).busy = true := rfl
@[simp] theorem statusAfterIssue_done (t : Status) : (statusAfterIssue t).done = false := rfl
@[simp] theorem statusAfterIssue_err (t : Status) : (statusAfterIssue t).err = false := rfl
@[simp] theorem statusAfterIssue_degraded (t : Status) : (statusAfterIssue t).degraded = false := rfl
@[simp] theorem statusAfterIssue_capped (t : Status) : (statusAfterIssue t).capped = false := rfl
@[simp] theorem statusAfterIssue_ovr (t : Status) : (statusAfterIssue t).ovr = t.ovr := rfl

@[simp] theorem statusAfterDrop_busy (t : Status) : (statusAfterDrop t).busy = t.busy := rfl
@[simp] theorem statusAfterDrop_done (t : Status) : (statusAfterDrop t).done = t.done := rfl
@[simp] theorem statusAfterDrop_err (t : Status) : (statusAfterDrop t).err = t.err := rfl
@[simp] theorem statusAfterDrop_degraded (t : Status) : (statusAfterDrop t).degraded = t.degraded := rfl
@[simp] theorem statusAfterDrop_capped (t : Status) : (statusAfterDrop t).capped = t.capped := rfl
@[simp] theorem statusAfterDrop_ovr (t : Status) : (statusAfterDrop t).ovr = true := rfl

@[simp] theorem statusAfterSuccess_busy (deg cap : Bool) (t : Status) : (statusAfterSuccess deg cap t).busy = false := rfl
@[simp] theorem statusAfterSuccess_done (deg cap : Bool) (t : Status) : (statusAfterSuccess deg cap t).done = true := rfl
@[simp] theorem statusAfterSuccess_err (deg cap : Bool) (t : Status) : (statusAfterSuccess deg cap t).err = t.err := rfl
@[simp] theorem statusAfterSuccess_degraded (deg cap : Bool) (t : Status) : (statusAfterSuccess deg cap t).degraded = deg := rfl
@[simp] theorem statusAfterSuccess_capped (deg cap : Bool) (t : Status) : (statusAfterSuccess deg cap t).capped = cap := rfl
@[simp] theorem statusAfterSuccess_ovr (deg cap : Bool) (t : Status) : (statusAfterSuccess deg cap t).ovr = t.ovr := rfl

@[simp] theorem statusAfterError_busy (deg cap : Bool) (t : Status) : (statusAfterError deg cap t).busy = false := rfl
@[simp] theorem statusAfterError_done (deg cap : Bool) (t : Status) : (statusAfterError deg cap t).done = true := rfl
@[simp] theorem statusAfterError_err (deg cap : Bool) (t : Status) : (statusAfterError deg cap t).err = true := rfl
@[simp] theorem statusAfterError_degraded (deg cap : Bool) (t : Status) : (statusAfterError deg cap t).degraded = deg := rfl
@[simp] theorem statusAfterError_capped (deg cap : Bool) (t : Status) : (statusAfterError deg cap t).capped = cap := rfl
@[simp] theorem statusAfterError_ovr (deg cap : Bool) (t : Status) : (statusAfterError deg cap t).ovr = t.ovr := rfl

@[simp] theorem statusAfterWrite_busy (v : Word) (t : Status) : (statusAfterWrite v t).busy = t.busy := rfl
@[simp] theorem statusAfterWrite_done (v : Word) (t : Status) : (statusAfterWrite v t).done = (t.done && !v.getLsbD 1) := rfl
@[simp] theorem statusAfterWrite_err (v : Word) (t : Status) : (statusAfterWrite v t).err = t.err := rfl
@[simp] theorem statusAfterWrite_degraded (v : Word) (t : Status) : (statusAfterWrite v t).degraded = t.degraded := rfl
@[simp] theorem statusAfterWrite_capped (v : Word) (t : Status) : (statusAfterWrite v t).capped = t.capped := rfl
@[simp] theorem statusAfterWrite_ovr (v : Word) (t : Status) : (statusAfterWrite v t).ovr = (t.ovr && !v.getLsbD 5) := rfl

end Sys2Proof.Machine
end

