-- ==== Sys2Proof/Laws/Arith.lean ====
section
/-! SUPPORT. What the integer functions and modular steps of 00_scope.md R12, R13 compute. -/

namespace Sys2Proof.Machine

/-! ### Rounded quotients and square roots -/

theorem le_ceildiv_mul (a b : Nat) (hb : 0 < b) : a ≤ ceildiv a b * b := by
  unfold ceildiv
  have h := Nat.div_add_mod (a + b - 1) b
  have hm := Nat.mod_lt (a + b - 1) hb
  rw [Nat.mul_comm] at h
  omega

theorem ceildiv_le_of_le_mul (a b q : Nat) (hb : 0 < b) (h : a ≤ q * b) : ceildiv a b ≤ q := by
  unfold ceildiv
  refine Nat.le_of_lt_succ (Nat.div_lt_of_lt_mul ?_)
  rw [Nat.mul_succ, Nat.mul_comm]
  omega

/-- ceildiv is the smallest q with q·b ≥ a. -/
theorem ceildiv_isLeast (a b : Nat) (hb : 0 < b) : IsLeast (fun q => a ≤ q * b) (ceildiv a b) :=
  ⟨le_ceildiv_mul a b hb, fun _ h => ceildiv_le_of_le_mul a b _ hb h⟩

theorem isqrtBits_spec (n k r : Nat) (h1 : r * r ≤ n) (h2 : n < (r + 2 ^ k) * (r + 2 ^ k)) :
    isqrtBits n k r * isqrtBits n k r ≤ n ∧ n < (isqrtBits n k r + 1) * (isqrtBits n k r + 1) := by
  induction k generalizing r with
  | zero => exact ⟨h1, by simpa [isqrtBits] using h2⟩
  | succ k ih =>
    unfold isqrtBits
    split
    · rename_i h
      exact ih _ h (by rw [Nat.pow_succ] at h2; rw [Nat.add_assoc, ← Nat.mul_two]; exact h2)
    · rename_i h
      exact ih _ h1 (by omega)

/-- isqrt is the floor square root below 2^128. -/
theorem isqrt_spec (n : Nat) (h : n < 2 ^ 128) : isqrt n * isqrt n ≤ n ∧ n < (isqrt n + 1) * (isqrt n + 1) :=
  isqrtBits_spec n 64 0 (Nat.zero_le _) (by norm_num; exact h)

theorem isqrt_eq_sqrt (n : Nat) (h : n < 2 ^ 128) : isqrt n = Nat.sqrt n :=
  Nat.eq_sqrt.2 (isqrt_spec n h)

/-- csqrt is the ceiling square root below 2^128. -/
theorem csqrt_isLeast (n : Nat) (h : n < 2 ^ 128) : IsLeast (fun s => n ≤ s * s) (csqrt n) := by
  obtain ⟨h1, h2⟩ := isqrt_spec n h
  unfold csqrt
  split
  · rename_i he
    refine ⟨he.ge, fun s hs => ?_⟩
    by_contra hc
    have hlt : s * s < isqrt n * isqrt n := Nat.mul_self_lt_mul_self (by omega)
    have hs' : n ≤ s * s := hs
    omega
  · rename_i he
    refine ⟨h2.le, fun s hs => ?_⟩
    by_contra hc
    have hle : s * s ≤ isqrt n * isqrt n := Nat.mul_self_le_mul_self (by omega)
    have hs' : n ≤ s * s := hs
    omega

/-! ### Modular doubling and halving -/

/-- One doubling is 2·v mod p. -/
theorem dbl_eq_mod (p v : Nat) (h : v < p) : dbl p v = 2 * v % p := by
  unfold dbl
  split
  · rw [Nat.mod_eq_sub_mod (by omega), Nat.mod_eq_of_lt (by omega)]
  · rw [Nat.mod_eq_of_lt (by omega)]

theorem dbl_lt (p v : Nat) (h : v < p) : dbl p v < p := by unfold dbl; split <;> omega

theorem hlv_lt (p v : Nat) (h : v < p) : hlv p v < p := by unfold hlv; split <;> omega

/-- Halving then doubling gives the residue back, for odd p. -/
theorem dbl_hlv (p v : Nat) (hp : p % 2 = 1) (h : v < p) : dbl p (hlv p v) = v := by
  unfold dbl hlv
  split <;> split <;> omega

/-- Doubling then halving gives the residue back, for odd p. -/
theorem hlv_dbl (p v : Nat) (hp : p % 2 = 1) : hlv p (dbl p v) = v := by
  unfold hlv dbl
  split <;> split <;> omega

theorem repeatStep_succ (f : Nat → Nat) (n v : Nat) : repeatStep f (n + 1) v = f (repeatStep f n v) := by
  induction n generalizing v with
  | zero => rfl
  | succ n ih => exact ih (f v)

theorem repeatStep_lt (f : Nat → Nat) (p n v : Nat) (hf : ∀ x < p, f x < p) (h : v < p) : repeatStep f n v < p := by
  induction n generalizing v with
  | zero => exact h
  | succ n ih => exact ih (f v) (hf v h)

/-- `n` doublings multiply by 2^n modulo p. -/
theorem repeatStep_dbl (p n v : Nat) (h : v < p) : repeatStep (dbl p) n v = 2 ^ n * v % p := by
  induction n with
  | zero => simp [repeatStep, Nat.mod_eq_of_lt h]
  | succ n ih =>
    rw [repeatStep_succ, dbl_eq_mod p _ (repeatStep_lt _ p n v (dbl_lt p) h), ih, Nat.pow_succ]
    conv_rhs => rw [Nat.mul_comm (2 ^ n) 2, Nat.mul_assoc, Nat.mul_mod]
    rw [Nat.mul_mod, Nat.mod_mod]

/-- `n` halvings undo `n` doublings: multiplied by 2^n they give the residue back, for odd p. -/
theorem repeatStep_hlv (p n v : Nat) (hp : p % 2 = 1) (h : v < p) : 2 ^ n * repeatStep (hlv p) n v % p = v := by
  induction n generalizing v with
  | zero => simp [repeatStep, Nat.mod_eq_of_lt h]
  | succ n ih =>
    have h1 : 2 ^ n * repeatStep (hlv p) n (hlv p v) % p = hlv p v := ih _ (hlv_lt p v h)
    have h2 := dbl_hlv p v hp h
    rw [dbl_eq_mod p _ (hlv_lt p v h)] at h2
    calc 2 ^ (n + 1) * repeatStep (hlv p) (n + 1) v % p
        = 2 * (2 ^ n * repeatStep (hlv p) n (hlv p v)) % p := by rw [Nat.pow_succ]; simp only [repeatStep]; ring_nf
      _ = 2 * hlv p v % p := by rw [← Nat.mul_mod_mod, h1]
      _ = v := h2

/-- The modular sum. -/
theorem addmodP_eq_mod (p a b : Nat) (ha : a < p) (hb : b < p) : addmodP p a b = (a + b) % p := by
  unfold addmodP
  split
  · rw [Nat.mod_eq_sub_mod (by omega), Nat.mod_eq_of_lt (by omega)]
  · rw [Nat.mod_eq_of_lt (by omega)]

end Sys2Proof.Machine
end

