-- ==== Sys2Proof/Laws/Loops.lean ====
section
/-! SUPPORT. What each loop of the exponentiation, discrete-logarithm and primality rules can answer, said once. -/

namespace Sys2Proof.Machine

/-- The unbounded linear loop (R183, R184): it stops at the first step whose value is `one`, or it has used up its
steps and none gave `one`. -/
theorem stepUntil_cases (f : Nat → Nat) (one n s v : Nat) :
    (∃ k < n, repeatStep f (k + 1) v = one ∧ (∀ j < k, repeatStep f (j + 1) v ≠ one) ∧
      stepUntil f one n s v = s + k + 1) ∨
    ((∀ j < n, repeatStep f (j + 1) v ≠ one) ∧ stepUntil f one n s v = s + n) := by
  induction n generalizing s v with
  | zero => exact .inr ⟨fun j hj => absurd hj (Nat.not_lt_zero j), rfl⟩
  | succ n ih =>
    unfold stepUntil
    split
    · rename_i h
      exact .inl ⟨0, Nat.succ_pos n, h, fun j hj => absurd hj (Nat.not_lt_zero j), rfl⟩
    · rename_i h
      have hstep : ∀ j, (∀ i < j, repeatStep f (i + 1) (f v) ≠ one) → ∀ i < j + 1, repeatStep f (i + 1) v ≠ one := by
        intro j hj i hi
        cases i with
        | zero => exact h
        | succ i => exact hj i (by omega)
      rcases ih (s + 1) (f v) with ⟨k, hk, hone, hmin, he⟩ | ⟨hnone, he⟩
      · exact .inl ⟨k + 1, by omega, hone, hstep k hmin, by omega⟩
      · exact .inr ⟨hstep n hnone, by omega⟩

/-- The bounded linear loop (R185, R186): the first step whose value is `one`, or 0 when no step gives it. -/
theorem stepWithin_cases (f : Nat → Nat) (one n s v : Nat) :
    (∃ k < n, repeatStep f (k + 1) v = one ∧ (∀ j < k, repeatStep f (j + 1) v ≠ one) ∧
      stepWithin f one n s v = s + k) ∨
    ((∀ j < n, repeatStep f (j + 1) v ≠ one) ∧ stepWithin f one n s v = 0) := by
  induction n generalizing s v with
  | zero => exact .inr ⟨fun j hj => absurd hj (Nat.not_lt_zero j), rfl⟩
  | succ n ih =>
    unfold stepWithin
    split
    · rename_i h
      exact .inl ⟨0, Nat.succ_pos n, h, fun j hj => absurd hj (Nat.not_lt_zero j), rfl⟩
    · rename_i h
      have hstep : ∀ j, (∀ i < j, repeatStep f (i + 1) (f v) ≠ one) → ∀ i < j + 1, repeatStep f (i + 1) v ≠ one := by
        intro j hj i hi
        cases i with
        | zero => exact h
        | succ i => exact hj i (by omega)
      rcases ih (s + 1) (f v) with ⟨k, hk, hone, hmin, he⟩ | ⟨hnone, he⟩
      · exact .inl ⟨k + 1, by omega, hone, hstep k hmin, by omega⟩
      · exact .inr ⟨hstep n hnone, he⟩

/-- The baby steps (R192): a hit at the first doubled value that is 1 mod p, or none; the table then holds the values
before each doubling made, with their indices. -/
theorem babySteps_cases (p n j v : Nat) (t : List TableEntry) :
    (∃ k < n, repeatStep (dbl p) (k + 1) v = 1 % p ∧ (∀ i < k, repeatStep (dbl p) (i + 1) v ≠ 1 % p) ∧
      (babySteps p n j v t).1 = some (j + k + 1)) ∨
    ((∀ i < n, repeatStep (dbl p) (i + 1) v ≠ 1 % p) ∧ (babySteps p n j v t).1 = none ∧
      ∀ e, e ∈ (babySteps p n j v t).2 ↔ e ∈ t ∨ ∃ k < n, e = ⟨repeatStep (dbl p) k v, j + k⟩) := by
  induction n generalizing j v t with
  | zero =>
    exact .inr ⟨fun i hi => absurd hi (Nat.not_lt_zero i), rfl, fun e => by simp [babySteps]⟩
  | succ n ih =>
    unfold babySteps
    split
    · rename_i h
      exact .inl ⟨0, Nat.succ_pos n, h, fun i hi => absurd hi (Nat.not_lt_zero i), rfl⟩
    · rename_i h
      have hstep : ∀ j, (∀ i < j, repeatStep (dbl p) (i + 1) (dbl p v) ≠ 1 % p) →
          ∀ i < j + 1, repeatStep (dbl p) (i + 1) v ≠ 1 % p := by
        intro j hj i hi
        cases i with
        | zero => exact h
        | succ i => exact hj i (by omega)
      rcases ih (j + 1) (dbl p v) (⟨v, j⟩ :: t) with ⟨k, hk, hone, hmin, he⟩ | ⟨hnone, he, hmem⟩
      · exact .inl ⟨k + 1, by omega, hone, hstep k hmin, by rw [he]; congr 1; omega⟩
      · refine .inr ⟨hstep n hnone, he, fun e => ?_⟩
        rw [hmem]
        constructor
        · rintro (hc | ⟨k, hk, rfl⟩)
          · rcases List.mem_cons.1 hc with rfl | hc
            · exact .inr ⟨0, by omega, rfl⟩
            · exact .inl hc
          · exact .inr ⟨k + 1, by omega, by simp only [repeatStep]; congr 1; omega⟩
        · rintro (hc | ⟨k, hk, rfl⟩)
          · exact .inl (List.mem_cons_of_mem _ hc)
          · cases k with
            | zero => exact .inl List.mem_cons_self
            | succ k => exact .inr ⟨k, by omega, by simp only [repeatStep]; congr 1; omega⟩

/-- A baby-step table has one entry per doubling made. -/
theorem babySteps_length (p n j v : Nat) (t : List TableEntry) : (babySteps p n j v t).2.length ≤ n + t.length := by
  induction n generalizing j v t with
  | zero => simp [babySteps]
  | succ n ih =>
    unfold babySteps
    split
    · simp
    · refine (ih _ _ _).trans ?_
      simp; omega

theorem tableIndex_some (t : List TableEntry) (y j : Nat) (h : tableIndex t y = some j) : ⟨y, j⟩ ∈ t := by
  induction t with
  | nil => simp [tableIndex] at h
  | cons e t ih =>
    unfold tableIndex at h
    split at h
    · rename_i he
      cases h
      subst he
      exact List.mem_cons_self
    · exact List.mem_cons_of_mem _ (ih h)

theorem tableIndex_none (t : List TableEntry) (y : Nat) (h : tableIndex t y = none) : ∀ e ∈ t, e.value ≠ y := by
  induction t with
  | nil => intro e he; cases he
  | cons e t ih =>
    unfold tableIndex at h
    split at h
    · cases h
    · rename_i he
      intro x hx
      rcases List.mem_cons.1 hx with rfl | hx
      · exact he
      · exact ih h x hx

/-- The giant value after `k` steps from `y` (R195). -/
def giantValue (w : Width) (p am y k : Nat) : Nat := repeatStep (fun x => mulmodP w p x am) k y

/-- Step `k` of the giant loop, counted from 0 at index `i`, neither reaches the limit nor finds its value. -/
def giantMiss (w : Width) (p am m : Nat) (bound : Option Int) (t : List TableEntry) (i y k : Nat) : Prop :=
  reachedLimit bound ((i + k) * m) = false ∧ tableIndex t (giantValue w p am y (k + 1)) = none

/-- The giant steps (R195): they end at the first step that reaches the limit or finds its value in the table, and are
exhausted when none does. -/
theorem giantSteps_cases (w : Width) (p am m : Nat) (bound : Option Int) (t : List TableEntry) (n i y : Nat) :
    (∃ k < n, ∃ j, (∀ x < k, giantMiss w p am m bound t i y x) ∧ reachedLimit bound ((i + k) * m) = false ∧
      tableIndex t (giantValue w p am y (k + 1)) = some j ∧
      giantSteps w p am m bound t n i y = .hit (i + k) j (giantValue w p am y (k + 1))) ∨
    (∃ k < n, (∀ x < k, giantMiss w p am m bound t i y x) ∧ reachedLimit bound ((i + k) * m) = true ∧
      giantSteps w p am m bound t n i y = .stopped) ∨
    ((∀ x < n, giantMiss w p am m bound t i y x) ∧ giantSteps w p am m bound t n i y = .exhausted) := by
  induction n generalizing i y with
  | zero => exact .inr (.inr ⟨fun x hx => absurd hx (Nat.not_lt_zero x), rfl⟩)
  | succ n ih =>
    unfold giantSteps
    split
    · rename_i h
      exact .inr (.inl ⟨0, Nat.succ_pos n, fun x hx => absurd hx (Nat.not_lt_zero x), h, rfl⟩)
    · rename_i h
      have h0 : reachedLimit bound ((i + 0) * m) = false := by simpa using h
      split
      · rename_i j hj
        exact .inl ⟨0, Nat.succ_pos n, j, fun x hx => absurd hx (Nat.not_lt_zero x), h0, hj, rfl⟩
      · rename_i hj
        have hcons : ∀ k, (∀ x < k, giantMiss w p am m bound t (i + 1) (mulmodP w p y am) x) →
            ∀ x < k + 1, giantMiss w p am m bound t i y x := by
          intro k hk x hx
          cases x with
          | zero => exact ⟨h0, hj⟩
          | succ x =>
            have := hk x (by omega)
            rwa [giantMiss, Nat.add_assoc, Nat.add_comm 1 x] at this
        have hi : ∀ k, i + 1 + k = i + (k + 1) := fun k => by omega
        rcases ih (i + 1) (mulmodP w p y am) with ⟨k, hk, j, hm, hr, ht, he⟩ | ⟨k, hk, hm, hr, he⟩ | ⟨hm, he⟩
        · rw [hi] at hr he
          exact .inl ⟨k + 1, by omega, j, hcons k hm, hr, ht, he⟩
        · rw [hi] at hr
          exact .inr (.inl ⟨k + 1, by omega, hcons k hm, hr, he⟩)
        · exact .inr (.inr ⟨hcons n hm, he⟩)

/-- The trial-division scan (R221 to R223): true exactly when no candidate up to `s` divides n. -/
theorem noDivisor_iff (candidate : Nat → Bool) (stride n s k d : Nat) :
    noDivisor candidate stride n s k d = true ↔
      ∀ j < k, d + j * stride ≤ s → ¬ (candidate (d + j * stride) = true ∧ n % (d + j * stride) = 0) := by
  induction k generalizing d with
  | zero => simp [noDivisor]
  | succ k ih =>
    have hshift : ∀ j, d + stride + j * stride = d + (j + 1) * stride := fun j => by ring
    unfold noDivisor
    split
    · split
      · rename_i hle hdiv
        refine ⟨fun h => absurd h (by simp), fun h => absurd ?_ (h 0 (Nat.succ_pos k) (by simpa using hle))⟩
        simpa using hdiv
      · rename_i hle hdiv
        rw [ih]
        constructor
        · intro h j hj
          cases j with
          | zero => intro _; simpa using hdiv
          | succ j => rw [← hshift]; exact h j (by omega)
        · intro h j hj
          rw [hshift]
          exact h (j + 1) (by omega)
    · rename_i hle
      refine ⟨fun _ j _ hj => absurd hj (by omega), fun _ => rfl⟩

/-- Square-and-multiply (R163, R164), whenever the multiplier is exact on residues: r·x^e mod p. -/
theorem squareMultiply_eq (w : Width) (p n r x e : Nat) (hmul : ∀ a < p, ∀ b < p, mulmodP w p a b = a * b % p)
    (hr : r < p) (hx : x < p) (he : e < 2 ^ n) : squareMultiply w p n r x e = r * x ^ e % p := by
  induction n generalizing r x e with
  | zero =>
    have : e = 0 := by simpa using he
    subst this
    simp [squareMultiply, Nat.mod_eq_of_lt hr]
  | succ n ih =>
    have hp : 0 < p := by omega
    unfold squareMultiply
    split
    · rename_i h0
      subst h0
      simp [Nat.mod_eq_of_lt hr]
    · have hlt : e / 2 < 2 ^ n := by rw [Nat.pow_succ] at he; omega
      have hsq : mulmodP w p x x = x * x % p := hmul x hx x hx
      have hxx : ∀ k, (x * x % p) ^ k % p = x ^ (2 * k) % p := fun k => by
        rw [← Nat.pow_mod, Nat.pow_mul, Nat.pow_two]
      rw [hsq]
      split
      · rename_i hodd
        rw [hmul r hr x hx, ih _ _ _ (Nat.mod_lt _ hp) (Nat.mod_lt _ hp) hlt, Nat.mul_mod, hxx, Nat.mod_mod,
          ← Nat.mul_mod, Nat.mul_assoc, ← Nat.pow_succ', show (2 * (e / 2)).succ = e by omega]
      · rename_i heven
        rw [ih _ _ _ hr (Nat.mod_lt _ hp) hlt, Nat.mul_mod, hxx, ← Nat.mul_mod, show 2 * (e / 2) = e by omega]

end Sys2Proof.Machine
end

