-- ==== Sys2Proof/Laws/Memory.lean ====
section
/-! SUPPORT. System memory: the canonical form is kept, a store is read back, and what a read or a scan of the bitset
can do (20_memory.md R82 to R84, R88, R92). -/

namespace Sys2Proof.Machine

/-! ### The list of cells -/

theorem memSorted_weaken (lo lo' : Int) (m : List Host.Cell) (h : lo' ≤ lo) (hm : memSorted lo m = true) :
    memSorted lo' m = true := by
  cases m with
  | nil => rfl
  | cons c cs =>
    simp only [memSorted, Bool.and_eq_true, decide_eq_true_eq] at hm ⊢
    exact ⟨⟨by omega, hm.1.2⟩, hm.2⟩

theorem memSorted_insert (lo : Int) (m : List Host.Cell) (a : Nat) (b : Byte) (hlo : lo < (a : Int))
    (ha : a < 2 ^ 64) (hm : memSorted lo m = true) : memSorted lo (memInsert m a b) = true := by
  induction m generalizing lo with
  | nil => simp [memInsert, memSorted, hlo]; exact ha
  | cons c cs ih =>
    simp only [memSorted, Bool.and_eq_true, decide_eq_true_eq] at hm
    obtain ⟨⟨h1, h2⟩, h3⟩ := hm
    unfold memInsert
    split
    · simp only [memSorted, Bool.and_eq_true, decide_eq_true_eq]
      exact ⟨⟨hlo, ha⟩, ⟨by omega, h2⟩, h3⟩
    · split
      · rename_i he
        subst he
        simp only [memSorted, Bool.and_eq_true, decide_eq_true_eq]
        exact ⟨⟨hlo, ha⟩, h3⟩
      · simp only [memSorted, Bool.and_eq_true, decide_eq_true_eq]
        exact ⟨⟨h1, h2⟩, ih c.1 (by omega) h3⟩

/-- Setting a byte keeps the canonical form. -/
theorem memWf_insert (m : List Host.Cell) (a : Nat) (b : Byte) (ha : a < 2 ^ 64) (hm : memWf m = true) :
    memWf (memInsert m a b) = true :=
  memSorted_insert (-1) m a b (by omega) ha hm

/-- A store by another agent keeps the canonical form. -/
theorem memWf_memStore (a : Addr) (b : Byte) (s : State) (hm : memWf s.mem = true) :
    memWf (memStore a b s).mem = true := by
  rw [memStore_mem]
  split
  · exact memWf_insert _ _ _ a.isLt hm
  · exact hm

theorem memWf_reset : memWf State.reset.mem = true := rfl

theorem memLookup_insert_self (m : List Host.Cell) (a : Nat) (b : Byte) : memLookup (memInsert m a b) a = some b := by
  induction m with
  | nil => simp [memInsert, memLookup]
  | cons c cs ih =>
    unfold memInsert
    split
    · simp [memLookup]
    · split
      · simp [memLookup]
      · rename_i h
        simp [memLookup, Ne.symm h, ih]

theorem memLookup_insert_other (m : List Host.Cell) (a x : Nat) (b : Byte) (h : x ≠ a) :
    memLookup (memInsert m a b) x = memLookup m x := by
  induction m with
  | nil => simp [memInsert, memLookup, Ne.symm h]
  | cons c cs ih =>
    unfold memInsert
    split
    · simp [memLookup, Ne.symm h]
    · split
      · rename_i he
        subst he
        simp [memLookup, Ne.symm h]
      · simp [memLookup, ih]

/-- A byte that has been stored is what memory holds there. -/
theorem byteAt_insert_self (m : List Host.Cell) (a : Nat) (b : Byte) : byteAt (memInsert m a b) a = b := by
  simp [byteAt, memLookup_insert_self]

/-- A store leaves every other byte of memory as it was. -/
theorem byteAt_insert_other (m : List Host.Cell) (a x : Nat) (b : Byte) (h : x ≠ a) :
    byteAt (memInsert m a b) x = byteAt m x := by
  simp [byteAt, memLookup_insert_other m a x b h]

theorem memLookup_none_of_sorted (m : List Host.Cell) (lo : Int) (a : Nat) (h : (a : Int) ≤ lo)
    (hm : memSorted lo m = true) : memLookup m a = none := by
  induction m generalizing lo with
  | nil => rfl
  | cons c cs ih =>
    simp only [memSorted, Bool.and_eq_true, decide_eq_true_eq] at hm
    obtain ⟨⟨h1, _⟩, h3⟩ := hm
    have hne : c.1 ≠ a := by omega
    simp only [memLookup, if_neg hne]
    exact ih c.1 (by omega) h3

theorem memLookup_of_mem_sorted (m : List Host.Cell) (lo : Int) (a : Nat) (b : Byte) (hm : memSorted lo m = true)
    (h : (a, b) ∈ m) : memLookup m a = some b := by
  induction m generalizing lo with
  | nil => cases h
  | cons c cs ih =>
    simp only [memSorted, Bool.and_eq_true, decide_eq_true_eq] at hm
    obtain ⟨_, h3⟩ := hm
    unfold memLookup
    rcases List.mem_cons.1 h with rfl | h
    · simp
    · have hl := ih c.1 h3 h
      split
      · rename_i he
        rw [← he, memLookup_none_of_sorted cs c.1 c.1 le_rfl h3] at hl
        cases hl
      · exact hl

/-- In canonical memory a listed byte is the one found. -/
theorem memLookup_of_mem (m : List Host.Cell) (a : Nat) (b : Byte) (hm : memWf m = true) (h : (a, b) ∈ m) :
    memLookup m a = some b :=
  memLookup_of_mem_sorted m (-1) a b hm h

/-! ### Reads of the block -/

/-- `t` is `s` after reads of system memory: only the read log, the number of free values drawn and the answers on hand
differ (R81, R91). -/
def ReadsOnly (s t : State) : Prop :=
  ∃ as n xs, t = { s with reads := s.reads ++ as, draws := s.draws + n, bytesRead := xs }

theorem ReadsOnly.refl (s : State) : ReadsOnly s s := ⟨[], 0, s.bytesRead, by simp⟩

theorem ReadsOnly.trans {s t u : State} (h1 : ReadsOnly s t) (h2 : ReadsOnly t u) : ReadsOnly s u := by
  obtain ⟨as, n, _, rfl⟩ := h1
  obtain ⟨bs, k, xs, rfl⟩ := h2
  exact ⟨as ++ bs, n + k, xs, by simp [Nat.add_assoc]⟩

theorem ReadsOnly.latch {s t : State} (h : ReadsOnly s t) : t.latch = s.latch := by obtain ⟨_, _, _, rfl⟩ := h; rfl
theorem ReadsOnly.status {s t : State} (h : ReadsOnly s t) : t.status = s.status := by obtain ⟨_, _, _, rfl⟩ := h; rfl
theorem ReadsOnly.mem {s t : State} (h : ReadsOnly s t) : t.mem = s.mem := by obtain ⟨_, _, _, rfl⟩ := h; rfl
theorem ReadsOnly.readable {s t : State} (h : ReadsOnly s t) : t.readable = s.readable := by
  obtain ⟨_, _, _, rfl⟩ := h; rfl
theorem ReadsOnly.volatile {s t : State} (h : ReadsOnly s t) : t.volatile = s.volatile := by
  obtain ⟨_, _, _, rfl⟩ := h; rfl
theorem ReadsOnly.touched {s t : State} (h : ReadsOnly s t) : t.touched = s.touched := by
  obtain ⟨_, _, _, rfl⟩ := h; rfl

/-- What MemRead can do (R82): a bus error where memory is not readable, the known byte, or a free one. -/
theorem memRead_cases (a : Nat) (s : State) :
    (inRanges s.readable a = false ∧ memRead a s = (none, { s with reads := s.reads ++ [a] })) ∨
    (inRanges s.readable a = true ∧ ∃ b, stableByte s a = some b ∧
      memRead a s = (some b, { s with reads := s.reads ++ [a] })) ∨
    (inRanges s.readable a = true ∧ stableByte s a = none ∧
      memRead a s = (some (Config.freeByte s.draws), { s with reads := s.reads ++ [a], draws := s.draws + 1 })) := by
  unfold memRead
  split
  · rename_i h
    cases hb : stableByte s a with
    | some b => exact .inr (.inl ⟨h, b, rfl, rfl⟩)
    | none => exact .inr (.inr ⟨h, rfl, rfl⟩)
  · rename_i h
    exact .inl ⟨by simpa using h, rfl⟩

theorem memRead_readsOnly (a : Nat) (s : State) : ReadsOnly s (memRead a s).2 := by
  rcases memRead_cases a s with ⟨_, h⟩ | ⟨_, b, _, h⟩ | ⟨_, _, h⟩ <;> rw [h]
  · exact ⟨[a], 0, _, rfl⟩
  · exact ⟨[a], 0, _, rfl⟩
  · exact ⟨[a], 1, _, rfl⟩

/-- A read of memory does not look at the answers on hand. -/
theorem memRead_bytesRead (a : Nat) (xs : List (Option Byte)) (s : State) :
    memRead a { s with bytesRead := xs } = ((memRead a s).1, { (memRead a s).2 with bytesRead := xs }) := by
  rcases memRead_cases a s with ⟨h, e⟩ | ⟨h, b, hb, e⟩ | ⟨h, hb, e⟩ <;> rw [e]
  · simp [memRead, h, logRead]
  · have hb' : stableByte { s with bytesRead := xs } a = some b := hb
    simp [memRead, h, hb', logRead]
  · have hb' : stableByte { s with bytesRead := xs } a = none := hb
    simp [memRead, h, hb', logRead]

theorem nextByte_nil (a : Nat) (s : State) (h : s.bytesRead = []) : nextByte a s = memRead a s := by
  simp [nextByte, h]

theorem nextByte_cons (a : Nat) (s : State) (x : Option Byte) (xs : List (Option Byte)) (h : s.bytesRead = x :: xs) :
    nextByte a s = (x, { s with bytesRead := xs }) := by
  simp [nextByte, h]

theorem nextByte_readsOnly (a : Nat) (s : State) : ReadsOnly s (nextByte a s).2 := by
  unfold nextByte
  split
  · rename_i xs _
    exact ⟨[], 0, xs, by simp⟩
  · exact memRead_readsOnly a s

/-- What a read as an event of its own can do: it logs the address, and leaves a bus error, the byte that memory holds,
or a free byte on hand (R82, R88, R90 to R92). -/
theorem fetchByte_cases (a : Nat) (s : State) :
    (inRanges s.readable a = false ∧
      fetchByte a s = { s with reads := s.reads ++ [a], bytesRead := s.bytesRead ++ [none] }) ∨
    (inRanges s.readable a = true ∧ inRanges s.volatile a = false ∧ a ∉ s.touched ∧ a ∉ storesToCome s.inputs ∧
      fetchByte a s = { s with reads := s.reads ++ [a], bytesRead := s.bytesRead ++ [some (byteAt s.mem a)] }) ∨
    (inRanges s.readable a = true ∧ (inRanges s.volatile a = true ∨ a ∈ s.touched ∨ a ∈ storesToCome s.inputs) ∧
      fetchByte a s = { s with
        reads := s.reads ++ [a]
        bytesRead := s.bytesRead ++ [some (Config.freeByte s.draws)]
        draws := s.draws + 1 }) := by
  unfold fetchByte
  rcases memRead_cases a { s with touched := storesToCome s.inputs ++ s.touched } with
    ⟨h, e⟩ | ⟨h, b, hb, e⟩ | ⟨h, hb, e⟩ <;> rw [e]
  · exact .inl ⟨h, rfl⟩
  · simp only [stableByte, Bool.or_eq_true, List.contains_iff_mem, List.mem_append] at hb
    split at hb
    · cases hb
    · rename_i hn
      push Not at hn
      cases hb
      exact .inr (.inl ⟨h, by simpa using hn.1, hn.2.2, hn.2.1, rfl⟩)
  · simp only [stableByte, Bool.or_eq_true, List.contains_iff_mem, List.mem_append] at hb
    split at hb
    · rename_i hn
      exact .inr (.inr ⟨h, by tauto, rfl⟩)
    · cases hb

theorem fetchByte_readsOnly (a : Nat) (s : State) : ReadsOnly s (fetchByte a s) := by
  rcases fetchByte_cases a s with ⟨_, h⟩ | ⟨_, _, _, _, h⟩ | ⟨_, _, h⟩ <;> rw [h]
  · exact ⟨[a], 0, _, rfl⟩
  · exact ⟨[a], 0, _, rfl⟩
  · exact ⟨[a], 1, _, rfl⟩

/-- With no store to come, a read as an event of its own is the read made at the completion, with its answer on hand. -/
theorem fetchByte_eq (a : Nat) (s : State) (h : storesToCome s.inputs = []) :
    fetchByte a s = { (memRead a s).2 with bytesRead := s.bytesRead ++ [(memRead a s).1] } := by
  rcases memRead_cases a s with ⟨_, e⟩ | ⟨_, b, _, e⟩ | ⟨_, _, e⟩ <;> simp [fetchByte, h, e]

/-- What get_bit can do (R84). -/
theorem getBit_eq (i : Nat) (s : State) :
    getBit i s =
      ((nextByte (bitAddress s.latch i) s).1.map (bitOfByte · i), (nextByte (bitAddress s.latch i) s).2) := by
  unfold getBit
  rcases nextByte (bitAddress s.latch i) s with ⟨_ | b, t⟩ <;> rfl

/-- get_bit of a readable byte whose value is specified, with no answer on hand. -/
theorem getBit_stable (i : Nat) (s : State) (b : Byte) (hq : s.bytesRead = [])
    (hr : inRanges s.readable (bitAddress s.latch i) = true) (hb : stableByte s (bitAddress s.latch i) = some b) :
    getBit i s = (some (bitOfByte b i), { s with reads := s.reads ++ [bitAddress s.latch i] }) := by
  rw [getBit_eq, nextByte_nil _ _ hq]
  rcases memRead_cases (bitAddress s.latch i) s with ⟨h, _⟩ | ⟨_, c, hc, h⟩ | ⟨_, h, _⟩
  · rw [hr] at h; cases h
  · rw [hb] at hc; cases hc; rw [h]; rfl
  · rw [hb] at h; cases h

/-- get_bit of a readable byte whose value is unspecified, with no answer on hand. -/
theorem getBit_free (i : Nat) (s : State) (hq : s.bytesRead = [])
    (hr : inRanges s.readable (bitAddress s.latch i) = true) (hb : stableByte s (bitAddress s.latch i) = none) :
    getBit i s = (some (bitOfByte (Config.freeByte s.draws) i),
      { s with reads := s.reads ++ [bitAddress s.latch i], draws := s.draws + 1 }) := by
  rw [getBit_eq, nextByte_nil _ _ hq]
  rcases memRead_cases (bitAddress s.latch i) s with ⟨h, _⟩ | ⟨_, c, hc, _⟩ | ⟨_, _, h⟩
  · rw [hr] at h; cases h
  · rw [hb] at hc; cases hc
  · rw [h]; rfl

/-- get_bit of a byte that is not readable, with no answer on hand. -/
theorem getBit_unreadable (i : Nat) (s : State) (hq : s.bytesRead = [])
    (hr : inRanges s.readable (bitAddress s.latch i) = false) :
    getBit i s = (none, { s with reads := s.reads ++ [bitAddress s.latch i] }) := by
  rw [getBit_eq, nextByte_nil _ _ hq]
  rcases memRead_cases (bitAddress s.latch i) s with ⟨_, h⟩ | ⟨h, _⟩ | ⟨h, _⟩
  · rw [h]; rfl
  · rw [hr] at h; cases h
  · rw [hr] at h; cases h

theorem getBit_readsOnly (i : Nat) (s : State) : ReadsOnly s (getBit i s).2 := by
  rw [getBit_eq]
  exact nextByte_readsOnly _ s

theorem bitOfByte_lt_two (b : Byte) (i : Nat) : bitOfByte b i < 2 := Nat.mod_lt _ (by decide)

/-- A bit that get_bit answers is 0 or 1. -/
theorem getBit_lt_two (i : Nat) (s : State) (b : Nat) (h : (getBit i s).1 = some b) : b < 2 := by
  rw [getBit_eq] at h
  simp only [Option.map_eq_some_iff] at h
  obtain ⟨c, _, rfl⟩ := h
  exact bitOfByte_lt_two c i

end Sys2Proof.Machine
end

