-- ==== Sys2Proof/Laws/Exec.lean ====
section
/-! SUPPORT. What the meaning of a command can do, said once: it runs, its memory reads touch only the read log, and its
completion follows (10_state.md R49). -/

namespace Sys2Proof.Machine

theorem scanBits_readsOnly (n i : Nat) (s : State) : ReadsOnly s (scanBits n i s).2 := by
  induction n generalizing i s with
  | zero => exact ReadsOnly.refl s
  | succ n ih =>
    have h := getBit_readsOnly i s
    unfold scanBits
    rcases hg : getBit i s with ⟨_ | b, t⟩
    · rw [hg] at h; exact h
    · rw [hg] at h
      dsimp only
      split
      · exact h
      · exact h.trans (ih (i + 1) t)

/-- An index found by a scan lies in the scanned range. -/
theorem scanBits_found (n i j : Nat) (s : State) (h : (scanBits n i s).1 = .found j) : i ≤ j ∧ j < i + n := by
  induction n generalizing i s with
  | zero => simp [scanBits] at h
  | succ n ih =>
    unfold scanBits at h
    rcases hg : getBit i s with ⟨_ | b, t⟩ <;> rw [hg] at h <;> dsimp only at h
    · cases h
    · split at h
      · cases h
        omega
      · have := ih (i + 1) t h
        omega

/-- What the successful end of a cached command can do: its own result, or a free one that R120 allows (R88). -/
theorem returnFromBitset_cases (w : Width) (r : Nat) (x : Work) (s : State) :
    (bitsetVolatile s = false ∧ returnFromBitset w r x s = (returnValue r x, s)) ∨
    (bitsetVolatile s = true ∧ returnFromBitset w r x s =
      (returnValue ((Config.freeResult s.draws).toNat % 2 ^ (bitsOf w - 1)) x, { s with draws := s.draws + 1 })) := by
  unfold returnFromBitset
  split
  · rename_i h; exact .inr ⟨h, rfl⟩
  · rename_i h; exact .inl ⟨by simpa using h, rfl⟩

theorem returnFromBitset_readsOnly (w : Width) (r : Nat) (x : Work) (s : State) :
    ReadsOnly s (returnFromBitset w r x s).2 := by
  rcases returnFromBitset_cases w r x s with ⟨_, h⟩ | ⟨_, h⟩ <;> rw [h]
  · exact ReadsOnly.refl s
  · exact ⟨[], 1, s.bytesRead, by simp⟩

theorem runIsprimeC_readsOnly (w : Width) (s : State) : ReadsOnly s (runIsprimeC w s).2 := by
  unfold runIsprimeC
  split
  · exact ReadsOnly.refl s
  · have h := getBit_readsOnly (opnd w s.latch.p).toNat s
    split <;> rename_i hg <;> rw [hg] at h
    · exact h.trans (returnFromBitset_readsOnly _ _ _ _)
    · exact h

theorem runNextprimeC_readsOnly (w : Width) (s : State) : ReadsOnly s (runNextprimeC w s).2 := by
  unfold runNextprimeC
  split
  · exact ReadsOnly.refl s
  · have h := scanBits_readsOnly (opnd w s.latch.a - (opnd w s.latch.p + 1)).toNat ((opnd w s.latch.p).toNat + 1) s
    split <;> rename_i hg <;> rw [hg] at h
    · exact h.trans (returnFromBitset_readsOnly _ _ _ _)
    · exact h.trans (returnFromBitset_readsOnly _ _ _ _)
    · exact h

/-- A read as an event of its own changes only the read log, the number of free values drawn and the answers on hand. -/
theorem readAhead_cases (s : State) : readAhead s = s ∨ ∃ i a, decode (fetchedWord s) = .ok i ∧
    pendingRead i s = some a ∧ readAhead s = fetchByte a s := by
  unfold readAhead
  split
  · rename_i i hi
    split
    · rename_i a ha
      exact .inr ⟨i, a, hi, ha, rfl⟩
    · exact .inl rfl
  · exact .inl rfl

theorem readAhead_readsOnly (s : State) : ReadsOnly s (readAhead s) := by
  rcases readAhead_cases s with h | ⟨i, a, _, _, h⟩ <;> rw [h]
  · exact ReadsOnly.refl s
  · exact fetchByte_readsOnly a s

/-- The run of a command on a state, and the state after its memory reads. -/
def runOf (i : Instr) (s : State) : Run × State :=
  match i with
  | .mulmod64 | .mulmod128 => (runMulmod (widthOf i) s.latch, s)
  | .addmod64 | .addmod128 => (runAddmod (widthOf i) s.latch, s)
  | .pow2f64 | .pow2f128 => (runPow2f (widthOf i) s.latch, s)
  | .pow2b64 | .pow2b128 => (runPow2b (widthOf i) s.latch, s)
  | .pow2l64 | .pow2l128 => (runPow2l (widthOf i) s.latch, s)
  | .powl64 | .powl128 => (runPowl (widthOf i) s.latch, s)
  | .dlogMn64 | .dlogMn128 => (runDlogMn (widthOf i) s.latch, s)
  | .dlogPl64 | .dlogPl128 => (runDlogPl (widthOf i) s.latch, s)
  | .dlogBg64 | .dlogBg128 => (runDlogBg (widthOf i) s.latch, s)
  | .dlogMnLim64 | .dlogMnLim128 => (runDlogMnLim (widthOf i) s.latch, s)
  | .dlogPlLim64 | .dlogPlLim128 => (runDlogPlLim (widthOf i) s.latch, s)
  | .dlogBgLim64 | .dlogBgLim128 => (runDlogBgLim (widthOf i) s.latch, s)
  | .isprime64 | .isprime128 => (runTrial primePlain (opnd (widthOf i) s.latch.p), s)
  | .isprimeW6n64 | .isprimeW6n128 => (runTrial primeWheel6 (opnd (widthOf i) s.latch.p), s)
  | .isprimeW30n64 | .isprimeW30n128 => (runTrial primeWheel30 (opnd (widthOf i) s.latch.p), s)
  | .isprimeC64 | .isprimeC128 => runIsprimeC (widthOf i) s
  | .nextprimeC64 | .nextprimeC128 => runNextprimeC (widthOf i) s

/-- Every command answers a next state: the completion of its run. -/
theorem exec_eq (i : Instr) (s : State) : exec i s = .next (finish (widthOf i) (runOf i s).1 (runOf i s).2) := by
  cases i <;> rfl

theorem runOf_readsOnly (i : Instr) (s : State) : ReadsOnly s (runOf i s).2 := by
  cases i <;> first
    | exact ReadsOnly.refl s
    | exact runIsprimeC_readsOnly _ s
    | exact runNextprimeC_readsOnly _ s

/-- A completion does not depend on the working values and the table that the run leaves (R61, R62). -/
theorem finish_eq (w : Width) (x : Run) (s : State) :
    finish w x s = match x.ending with
      | .success r deg cap => completeSuccess w r deg cap s
      | .error e deg cap => completeError e deg cap s := by
  unfold finish
  cases x.ending <;> rfl

/-- The inversion of exec: a command completes with success or with an error, from the state after its reads. -/
theorem exec_cases (i : Instr) (s t : State) (h : exec i s = .next t) :
    ∃ u, ReadsOnly s u ∧
      ((∃ r deg cap, (runOf i s).1.ending = .success r deg cap ∧ t = completeSuccess (widthOf i) r deg cap u) ∨
       (∃ e deg cap, (runOf i s).1.ending = .error e deg cap ∧ t = completeError e deg cap u)) := by
  rw [exec_eq, finish_eq] at h
  refine ⟨(runOf i s).2, runOf_readsOnly i s, ?_⟩
  cases hx : (runOf i s).1.ending with
  | success r deg cap =>
    rw [hx] at h
    cases h
    exact .inl ⟨r, deg, cap, rfl, rfl⟩
  | error e deg cap =>
    rw [hx] at h
    cases h
    exact .inr ⟨e, deg, cap, rfl, rfl⟩

end Sys2Proof.Machine
end

