-- ==== Sys2Proof/Tests/Slice0.lean ====
section
/-! SUPPORT. Tests: the checks of WellFormed, the decoding of every command word, one or two vectors per command from
95_test_vectors.md, single steps of the host interface, and a witness for every statement that has hypotheses. -/

namespace Sys2Proof.Tests

open Sys2Proof.Machine Sys2Proof.Safety

/-! ### WellFormed -/

/-- RSV bit 9 set (vector X3). -/
theorem test_wf_refuses_reserved_bits : (CmdFields.mk 1#55 0#1 0x01#8).rsvClear = false := by decide
/-- OP 0x13 is reserved (R114). -/
theorem test_wf_refuses_reserved_op : (CmdFields.mk 0#55 1#1 0x13#8).opDefined = false := by decide
theorem test_wf_refuses_ill_formed :
    (CmdFields.mk 1#55 0#1 0x01#8).wellFormed = false ∧ (CmdFields.mk 0#55 1#1 0x13#8).wellFormed = false := by decide
theorem test_wf_accepts_mulmod128 : (CmdFields.mk 0#55 1#1 0x01#8).wellFormed = true := by decide

/-! ### Decoding: the words of R113, OP + 256·W -/

theorem test_decode_words_64 :
    [0x01, 0x02, 0x08, 0x09, 0x0A, 0x0B, 0x10, 0x11, 0x12, 0x14, 0x15, 0x16, 0x20, 0x21, 0x22, 0x24, 0x25].map
      (decodeTableWord 64) =
    [some .mulmod64, some .addmod64, some .pow2f64, some .pow2b64, some .pow2l64, some .powl64, some .dlogMn64,
      some .dlogPl64, some .dlogBg64, some .dlogMnLim64, some .dlogPlLim64, some .dlogBgLim64, some .isprime64,
      some .isprimeW6n64, some .isprimeW30n64, some .isprimeC64, some .nextprimeC64] := by decide
theorem test_decode_words_128 :
    [0x101, 0x102, 0x108, 0x109, 0x10A, 0x10B, 0x110, 0x111, 0x112, 0x114, 0x115, 0x116, 0x120, 0x121, 0x122, 0x124,
      0x125].map (decodeTableWord 64) =
    [some .mulmod128, some .addmod128, some .pow2f128, some .pow2b128, some .pow2l128, some .powl128, some .dlogMn128,
      some .dlogPl128, some .dlogBg128, some .dlogMnLim128, some .dlogPlLim128, some .dlogBgLim128, some .isprime128,
      some .isprimeW6n128, some .isprimeW30n128, some .isprimeC128, some .nextprimeC128] := by decide
/-- The reserved words of vectors X1 to X5. -/
theorem test_decode_reserved :
    [0x0, 0x3, 0x201, 0x8000000000000001, 0x1FF].map (decodeTableWord 64) = [none, none, none, none, none] := by decide
theorem test_decode_wrong_length : decodeBytes [1#8, 0#8] = .error (.wrongLength 2) := by rfl
theorem test_op_rows_distinct : (opMap.map OpRow.op).Pairwise (· ≠ ·) := by decide
/-- R125: case is not significant. -/
theorem test_assemble : assemble "Dlog_Bg_Lim.128" = some 0x116#64 := by decide

/-! ### Commands -/

/-- A state in which a command has just been issued with the given operands and configuration. -/
def issued (p a b : Wide) (budget : Word := 0x100000) (base len : Word := 0) : State :=
  { State.reset with
    status := { Status.clear with busy := true }
    latch := { cmd := 0, p := p, a := a, b := b, budget := budget, bsBase := base, bsLen := len } }

/-- R, STATUS and ERRCODE after a command. -/
def ending (o : Host.Outcome State Fault Refusal) : Option (Nat × Nat × Nat) :=
  match o with
  | .next t => some ((resultValue t).toNat, (statusWord t.status).toNat, t.errcode.toNat)
  | _ => none

/-- The bitset of 95_test_vectors.md §3 at 0x80000000. -/
def withBitset (s : State) : State :=
  { s with mem := [(0x80000000, 0x53), (0x80000001, 0xD7), (0x80000002, 0x75), (0x80000003, 0x5F), (0x80000004, 0xDF),
      (0x80000005, 0x75), (0x80000006, 0xDF), (0x80000007, 0xD7)] }

/-- The state of a cached command over that bitset (§2.7). -/
def cached (n lim : Wide) : State := withBitset (issued n lim 0 0x100000 0x80000000 64)

/-- M1 -/
theorem test_mulmod64 : ending (exec .mulmod64 (issued 13 7 11)) = some (12, 2, 0) := by decide
/-- M3: the wide path -/
theorem test_mulmod64_wide :
    ending (exec .mulmod64 (issued 0x7FFFFFFFFFFFFFFF 0x7FFFFFFFFFFFFFFE 0x7FFFFFFFFFFFFFFE)) = some (1, 2, 0) := by
  decide
/-- M12: the 256-bit datapath -/
theorem test_mulmod128_wide :
    ending (exec .mulmod128 (issued 0x7FFFFFFFFFFFFFFFFFFFFFFFFFFFFF61 0x123456789ABCDEF0FEDCBA9876543210
      0x0FEDCBA987654321123456789ABCDEF0)) = some (0x6E24FC40BF449D6DF218050E89CC292B, 2, 0) := by decide +kernel
/-- M13: the native path -/
theorem test_mulmod128_native :
    ending (exec .mulmod128 (issued 0x10000000000000000000000115 3 5)) = some (15, 2, 0) := by decide
/-- D2 -/
theorem test_addmod64 :
    ending (exec .addmod64 (issued 0x7FFFFFFFFFFFFFFF 0x7FFFFFFFFFFFFFFE 0x7FFFFFFFFFFFFFFE)) =
      some (0x7FFFFFFFFFFFFFFD, 2, 0) := by decide
/-- D5 -/
theorem test_addmod128 :
    ending (exec .addmod128 (issued 0x7FFFFFFFFFFFFFFFFFFFFFFFFFFFFFFF 0x7FFFFFFFFFFFFFFFFFFFFFFFFFFFFFFE
      0x7FFFFFFFFFFFFFFFFFFFFFFFFFFFFFFE)) = some (0x7FFFFFFFFFFFFFFFFFFFFFFFFFFFFFFD, 2, 0) := by decide
/-- E1 -/
theorem test_pow2f64 : ending (exec .pow2f64 (issued 223 37 0)) = some (1, 2, 0) := by decide +kernel
/-- E4 at width 128: an even modulus is allowed -/
theorem test_pow2f128 : ending (exec .pow2f128 (issued 10 5 0)) = some (2, 2, 0) := by decide
/-- E8 -/
theorem test_pow2b64 : ending (exec .pow2b64 (issued 223 5 0)) = some (7, 2, 0) := by decide
/-- X17: the even modulus is reported before the negative exponent -/
theorem test_pow2b64_priority :
    ending (exec .pow2b64 (issued 4 0xFFFFFFFFFFFFFFFF 0)) = some (0, 6, 3) := by decide
/-- E12 at width 128 -/
theorem test_pow2b128 : ending (exec .pow2b128 (issued 9 1 0)) = some (5, 2, 0) := by decide
/-- E14 -/
theorem test_pow2l64 : ending (exec .pow2l64 (issued 0x1FFFFFFFFFFFFFFF 62 0)) = some (2, 2, 0) := by decide +kernel
/-- E15 at width 128 -/
theorem test_pow2l128 : ending (exec .pow2l128 (issued 223 37 0)) = some (1, 2, 0) := by decide
/-- E17: the base is reduced -/
theorem test_powl64 : ending (exec .powl64 (issued 7 3 10)) = some (6, 2, 0) := by decide
/-- X13: a negative base -/
theorem test_powl64_negative_base :
    ending (exec .powl64 (issued 7 2 0xFFFFFFFFFFFFFFFD)) = some (0, 6, 4) := by decide
/-- E18 at width 128: 0^0 = 1 -/
theorem test_powl128 : ending (exec .powl128 (issued 7 0 0)) = some (1, 2, 0) := by decide
/-- G13 -/
theorem test_dlogMn64 : ending (exec .dlogMn64 (issued 223 0 0)) = some (37, 2, 0) := by decide
/-- G16: 61 steps of at most 2^61 − 2 -/
theorem test_dlogMn128 : ending (exec .dlogMn128 (issued 0x1FFFFFFFFFFFFFFF 0 0)) = some (61, 2, 0) := by
  decide
/-- G5 -/
theorem test_dlogPl64 : ending (exec .dlogPl64 (issued 9 0 0)) = some (6, 2, 0) := by decide
/-- G1: p = 1 -/
theorem test_dlogPl128 : ending (exec .dlogPl128 (issued 1 0 0)) = some (1, 2, 0) := by decide
/-- B4: giant steps -/
theorem test_dlogBg64 : ending (exec .dlogBg64 (issued 223 0 0)) = some (37, 2, 0) := by decide
/-- B23: a budget of 32 bytes, CAPPED and DEGRADED -/
theorem test_dlogBg64_degraded :
    ending (exec .dlogBg64 (issued 0x1FFFFFFFFFFFFFFF 0 0 0x20)) = some (61, 26, 0) := by decide
/-- B22 -/
theorem test_dlogBg128 : ending (exec .dlogBg128 (issued 223 0 0 0x20)) = some (37, 18, 0) := by decide
/-- B25: the fallback to the linear algorithm -/
theorem test_dlogBg128_fallback :
    ending (exec .dlogBg128 (issued 0x1FFFFFFFFFFFFFFFFFFFFFF 0 0 0x20)) = some (89, 26, 0) := by decide
/-- B10 -/
theorem test_dlogMnLim64 : ending (exec .dlogMnLim64 (issued 223 37 0)) = some (0, 2, 0) := by decide
/-- B11 at width 128 -/
theorem test_dlogMnLim128 : ending (exec .dlogMnLim128 (issued 223 38 0)) = some (37, 2, 0) := by decide
/-- B13: a negative limit -/
theorem test_dlogPlLim64 : ending (exec .dlogPlLim64 (issued 223 0xFFFFFFFFFFFFFFFB 0)) = some (0, 2, 0) := by
  decide
/-- B17 at width 128 -/
theorem test_dlogPlLim128 : ending (exec .dlogPlLim128 (issued 7 4 0)) = some (3, 2, 0) := by decide
/-- B10 -/
theorem test_dlogBgLim64 : ending (exec .dlogBgLim64 (issued 223 37 0)) = some (0, 2, 0) := by decide
/-- B11 -/
theorem test_dlogBgLim64_hit : ending (exec .dlogBgLim64 (issued 223 38 0)) = some (37, 2, 0) := by decide
/-- B15 at width 128 -/
theorem test_dlogBgLim128 : ending (exec .dlogBgLim128 (issued 1 2 0)) = some (1, 2, 0) := by decide
/-- T11 -/
theorem test_isprime64 : ending (exec .isprime64 (issued 121 0 0)) = some (0, 2, 0) := by decide
/-- T10 at width 128 -/
theorem test_isprime128 : ending (exec .isprime128 (issued 97 0 0)) = some (1, 2, 0) := by decide
/-- T9 -/
theorem test_isprimeW6n64 : ending (exec .isprimeW6n64 (issued 49 0 0)) = some (0, 2, 0) := by decide
/-- T10 at width 128 -/
theorem test_isprimeW6n128 : ending (exec .isprimeW6n128 (issued 97 0 0)) = some (1, 2, 0) := by decide
/-- T1: a negative number -/
theorem test_isprimeW30n64 : ending (exec .isprimeW30n64 (issued 0xFFFFFFFFFFFFFFF9 0 0)) = some (0, 2, 0) := by
  decide
/-- T12 at width 128 -/
theorem test_isprimeW30n128 : ending (exec .isprimeW30n128 (issued 561 0 0)) = some (0, 2, 0) := by decide
/-- K5 -/
theorem test_isprimeC64 : ending (exec .isprimeC64 (cached 37 0)) = some (1, 2, 0) := by decide
/-- X22: memory that is not readable -/
theorem test_isprimeC64_memFault :
    ending (exec .isprimeC64 { cached 3 0 with readable := [] }) = some (0, 6, 6) := by decide
/-- K4 at width 128 -/
theorem test_isprimeC128 : ending (exec .isprimeC128 (cached 9 0)) = some (0, 2, 0) := by decide
/-- K9 -/
theorem test_nextprimeC64 : ending (exec .nextprimeC64 (cached 13 64)) = some (17, 2, 0) := by decide
/-- X20: the limit exceeds BSLEN -/
theorem test_nextprimeC64_range : ending (exec .nextprimeC64 (cached 1 65)) = some (0, 6, 5) := by decide
/-- K10 at width 128 -/
theorem test_nextprimeC128 : ending (exec .nextprimeC128 (cached 23 29)) = some (0, 2, 0) := by decide

/-! ### Single steps of the machine -/

/-- STATUS and the last answer after one step. -/
def oneStep (s : State) : Option (Nat × Option Response) :=
  match step s with
  | .next t => some ((statusWord t.status).toNat, t.responses.getLast?)
  | _ => none

/-- The first command after reset: MULMOD.64 with P = 0 is INVALID_OPERAND. -/
theorem test_first_command : oneStep (State.reset.withFetchWord 64 1) = some (6, none) := by decide
/-- X27: a 4-byte write to CMD -/
theorem test_refused_write :
    oneStep { State.reset with inputs := [.hostWrite 4 0x010 0x20] } = some (0, some .busError) := by decide
/-- X26: ID -/
theorem test_read_id :
    oneStep { State.reset with inputs := [rd .id] } = some (0, some (.data 0x4C49424D50000007)) := by decide
/-- X25: a command write while BUSY -/
theorem test_command_while_busy :
    oneStep { issued 1 1 1 with inputs := [wr .cmd 0x20] } = some (0x21, some .ack) := by decide
theorem test_issue : oneStep { State.reset with inputs := [wr .cmd 0x20] } = some (1, some .ack) := by decide

/-- What the run of a command has read when the given events have passed (R90, R91). -/
def readsAfter (n : Nat) (s : State) : Option (List Nat × Nat) :=
  match Host.Core.run Sys2Proof.core n s with
  | .next t => some (t.reads, (resultValue t).toNat)
  | _ => none

/-- A read of bit 14, a poll of STATUS, and the completion with the reads of bits 15 to 17 (K9). -/
theorem test_read_then_poll :
    readsAfter 3 { cached 13 64 with
      latch := { (cached 13 64).latch with cmd := 0x25 }, inputs := [.blockRead, rd .status, .completion] } =
      some ([0x80000001, 0x80000001, 0x80000002, 0x80000002], 17) := by decide
/-- A reset after a read: the read is on the log, R is 0 (R281). -/
theorem test_read_then_reset :
    readsAfter 2 { cached 13 64 with
      latch := { (cached 13 64).latch with cmd := 0x25 }, inputs := [.blockRead, .reset] } =
      some ([0x80000001], 0) := by decide

/-! ### Witnesses: concrete states and operands that meet the hypotheses of each statement, clause by clause -/

/-- The state a step or a command answers. -/
def after (o : Host.Outcome State Fault Refusal) : State :=
  match o with
  | .next t => t
  | _ => State.reset

/-- A command of word `c` runs, and the given events are still to come. -/
def running (c : Word) (es : List Event) : State :=
  { issued 13 7 11 with latch := { (issued 13 7 11).latch with cmd := c }, inputs := es }

/-- An idle block with the given events still to come. -/
def idleWith (es : List Event) : State := { State.reset with inputs := es }

theorem witness_StepRunsTheDecodedCommand :
    Instr.mulmod64.wellFormed = true ∧ (running 1 []).status.busy = true ∧ decode (running 1 []).latch.cmd = .ok .mulmod64
    ∧ (running 1 []).inputs = [] ∧ (running 1 [.completion, rd .rLo]).inputs = .completion :: [rd .rLo] :=
  ⟨rfl, rfl, rfl, rfl, rfl⟩
theorem witness_ReservedWordCompletesIllegal :
    (running 0x201 []).status.busy = true ∧ (running 0x201 []).latch.cmd.toNat / 2 ^ 9 ≠ 0 ∧
    (running 0x126 [.completion]).status.busy = true ∧ (running 0x126 []).latch.cmd.toNat % 2 ^ 8 ∉
      [0x01, 0x02, 0x08, 0x09, 0x0A, 0x0B, 0x10, 0x11, 0x12, 0x14, 0x15, 0x16, 0x20, 0x21, 0x22, 0x24, 0x25] := by decide
theorem witness_RunningCommandIsUndisturbed :
    (running 1 [wr .cmd 2]).inputs = [wr .cmd 2] ∧ wr .cmd 2 ≠ .completion ∧ wr .cmd 2 ≠ .reset ∧
    (running 1 [wr .cmd 2]).status.busy = true ∧
    step (running 1 [wr .cmd 2]) = .next (after (step (running 1 [wr .cmd 2]))) :=
  ⟨rfl, by decide, by decide, rfl, rfl⟩
theorem witness_BlockNeverWritesMemory :
    step (running 0x24 []) = .next (after (step (running 0x24 []))) ∧
    ∀ a b rest, (running 0x24 []).inputs ≠ .memStore a b :: rest :=
  ⟨rfl, fun _ _ _ h => by cases h⟩
theorem witness_RefusedAccessHasNoEffect :
    ((4 ≠ 8 ∨ (0x010#12).toNat % 8 ≠ 0) ∧ (idleWith [.hostWrite 4 0x010 1]).inputs = [.hostWrite 4 0x010 1]) ∧
    ((8 ≠ 8 ∨ (0x011#12).toNat % 8 ≠ 0) ∧ (idleWith [.hostRead 8 0x011]).inputs = [.hostRead 8 0x011]) := by decide
theorem witness_ReadReturnsTheRegister :
    (idleWith [.hostRead 8 0x000]).inputs = [.hostRead 8 0x000#12] ∧
    (0x078#12, State.reset.rHi) ∈ [(0x000#12, 0x4C49424D50000007#64), (0x078#12, State.reset.rHi)] := by decide
theorem witness_ReservedOffsetsAreInert :
    0x080 ≤ (0x080#12).toNat ∧ (0x080#12).toNat % 8 = 0 ∧ 0x080 ≤ (0xFF8#12).toNat ∧ (0xFF8#12).toNat % 8 = 0 ∧
    (idleWith [.hostRead 8 0x080]).inputs = [.hostRead 8 0x080] ∧
    (idleWith [.hostWrite 8 0xFF8 1]).inputs = [.hostWrite 8 0xFF8 1] := by decide
theorem witness_ReadOnlyRegistersIgnoreWrites :
    0x078#12 ∈ [0x000#12, 0x020#12, 0x070#12, 0x078#12] ∧
    (idleWith [.hostWrite 8 0x078 1]).inputs = [.hostWrite 8 0x078#12 1#64] ∧
    (idleWith [.hostWrite 8 0x018 (63 &&& ~~~ 0x22)]).inputs = [.hostWrite 8 0x018#12 (63 &&& ~~~ 0x22#64)] ∧
    (idleWith [.hostRead 8 0x010]).inputs = [.hostRead 8 0x010#12] := by decide
theorem witness_StatusWriteClearsDoneAndOvr :
    (idleWith [.hostWrite 8 0x018 0x22]).inputs = [.hostWrite 8 0x018#12 0x22#64] := by decide
theorem witness_CtrlWriteSetsInterruptEnable :
    (idleWith [.hostWrite 8 0x008 3]).inputs = [.hostWrite 8 0x008#12 3#64] := by decide
theorem witness_TblBudgetWriteIsClamped :
    (idleWith [.hostWrite 8 0x028 31]).inputs = [.hostWrite 8 0x028#12 31#64] := by decide
theorem witness_OperandWriteStoresTheWord :
    (idleWith [.hostWrite 8 0x068 7]).inputs = [.hostWrite 8 0x068#12 7#64] ∧
    (idleWith [.hostWrite 8 0x030 7]).inputs = [.hostWrite 8 0x030#12 7#64] := by decide
theorem witness_CommandWriteIssues :
    ((idleWith [wr .cmd 1]).inputs = [.hostWrite 8 0x010#12 1#64] ∧ (idleWith [wr .cmd 1]).status.busy = false) ∧
    ((running 1 [wr .cmd 2]).inputs = [.hostWrite 8 0x010#12 2#64] ∧ (running 1 [wr .cmd 2]).status.busy = true) := by
  decide
theorem witness_Wr128StoresTheOperand : (idleWith (wr128 .a (-1))).inputs = wr128 .a (-1) := rfl
theorem witness_InterruptFollowsDone :
    exec .isprime64 (running 0x20 []) = .next (after (exec .isprime64 (running 0x20 []))) ∧
    ((idleWith [wr .cmd 1]).status.busy = false ∧ (idleWith [wr .cmd 1]).inputs = [.hostWrite 8 0x010#12 1#64] ∧
      step (idleWith [wr .cmd 1]) = .next (after (step (idleWith [wr .cmd 1])))) ∧
    ((running 1 [.reset]).inputs = [.reset] ∧ step (running 1 [.reset]) = .next (after (step (running 1 [.reset])))) ∧
    ((0x2#64).toNat / 2 % 2 = 1 ∧ (idleWith [wr .status 2]).inputs = [.hostWrite 8 0x018#12 2#64] ∧
      step (idleWith [wr .status 2]) = .next (after (step (idleWith [wr .status 2])))) :=
  ⟨rfl, ⟨rfl, rfl, rfl⟩, ⟨rfl, rfl⟩, ⟨by decide, rfl, rfl⟩⟩
theorem witness_ResetAbandonsTheCommand :
    (running 1 [.reset]).inputs = [.reset] ∧ step (running 1 [.reset]) = .next (after (step (running 1 [.reset]))) :=
  ⟨rfl, rfl⟩
theorem witness_AgentStoreIsSeen :
    (idleWith [.memStore 5 1]).inputs = [.memStore 5#64 1#8] ∧ InSome State.reset.readable 5 ∧
    ¬ InSome State.reset.volatile 5 ∧ ¬ InSome { State.reset with readable := [⟨0, 5⟩] }.readable 5 ∧
    memWf State.reset.mem = true ∧ (running 1 [.memStore 5 1]).status.busy = true ∧
    (idleWith [.memStore 5 1]).status.busy = false := by decide
theorem witness_CompletionFrame :
    exec .nextprimeC64 (cached 13 64) = .next (after (exec .nextprimeC64 (cached 13 64))) := rfl
theorem witness_OnlyBsgsReportsFlags :
    exec .dlogBg64 (issued 223 0 0 0x20) = .next (after (exec .dlogBg64 (issued 223 0 0 0x20))) ∧
    (after (exec .dlogBg64 (issued 223 0 0 0x20))).status.capped = true := ⟨rfl, by decide⟩
theorem witness_ResultsAreInRange :
    (exec .isprimeC64 (cached 37 0) = .next (after (exec .isprimeC64 (cached 37 0))) ∧
      (after (exec .isprimeC64 (cached 37 0))).status.err = false ∧ widthOf .isprimeC64 = .w64) ∧
    (exec .addmod128 (issued 5 4 3) = .next (after (exec .addmod128 (issued 5 4 3))) ∧
      (after (exec .addmod128 (issued 5 4 3))).status.err = false ∧ widthOf .addmod128 = .w128) :=
  ⟨⟨rfl, by decide, rfl⟩, ⟨rfl, by decide, rfl⟩⟩
/-- For each code: an even p of POW2B (3), p = 0 of MULMOD (2), a = p of ADDMOD (4), n = BSLEN of ISPRIME_C (5), and a
command that ends in success. -/
theorem witness_ErrorsAreRaisedExactlyWhen :
    ((issued 4 7 0).errcode = 0#8 ∧ exec .pow2b64 (issued 4 7 0) = .next (after (exec .pow2b64 (issued 4 7 0))) ∧
      opnd .w64 (issued 4 7 0).latch.p = 4 ∧ opnd .w64 (issued 4 7 0).latch.a = 7 ∧
      opnd .w64 (issued 4 7 0).latch.b = 0 ∧ (after (exec .pow2b64 (issued 4 7 0))).errcode = 3#8) ∧
    (opnd .w64 (issued 0 1 1).latch.p = 0 ∧ (after (exec .mulmod64 (issued 0 1 1))).errcode = 2#8) ∧
    (opnd .w128 (issued 13 13 0).latch.a = 13 ∧ (after (exec .addmod128 (issued 13 13 0))).errcode = 4#8) ∧
    (opnd .w64 (cached 64 0).latch.p = 64 ∧ (after (exec .isprimeC64 (cached 64 0))).errcode = 5#8) ∧
    (after (exec .isprimeC64 (cached 63 0))).errcode = 0#8 :=
  ⟨⟨rfl, rfl, rfl, rfl, rfl, by decide⟩, ⟨by decide, by decide⟩, ⟨by decide, by decide⟩, ⟨by decide, by decide⟩,
    by decide⟩
theorem witness_ExhaustedIsUnreachable :
    32 ≤ (issued 223 0 0 0x20).latch.budget.toNat ∧ (issued 223 0 0 0x20).errcode ≠ 7#8 ∧
    exec .dlogBg64 (issued 223 0 0 0x20) = .next (after (exec .dlogBg64 (issued 223 0 0 0x20))) :=
  ⟨by decide, by decide, rfl⟩
/-- One lookup of bit 37: other host-visible registers, another byte outside the bitset, and other draws before it. -/
def elsewhere : State :=
  { cached 37 0 with pLo := 99, mem := (5, 1) :: (cached 37 0).mem, readable := [⟨0x80000000, 8⟩], touched := [5], draws := 3 }

theorem witness_ResultsDependOnLatchesAndBitset :
    exec .isprimeC64 (cached 37 0) = .next (after (exec .isprimeC64 (cached 37 0))) ∧
    exec .isprimeC64 elsewhere = .next (after (exec .isprimeC64 elsewhere)) ∧
    elsewhere.latch = (cached 37 0).latch ∧ elsewhere.bytesRead = (cached 37 0).bytesRead ∧
    (∀ a, InBitset (cached 37 0).latch a → byteAt elsewhere.mem a = byteAt (cached 37 0).mem a ∧
      (InSome elsewhere.readable a ↔ InSome (cached 37 0).readable a) ∧
      (InSome elsewhere.volatile a ↔ InSome (cached 37 0).volatile a) ∧
      (a ∈ elsewhere.touched ↔ a ∈ (cached 37 0).touched)) ∧
    (∀ a, InBitset (cached 37 0).latch a → ¬ FreeByteAt (cached 37 0) a) ∧
    elsewhere.status = (cached 37 0).status ∧ elsewhere.errcode = (cached 37 0).errcode ∧
    (cached 37 0).status.err = false := by
  refine ⟨rfl, rfl, rfl, rfl, fun a h => ?_, fun a _ h => ?_, rfl, rfl, rfl⟩
  · obtain ⟨h1, h2⟩ := h
    have h1' : 0x80000000 ≤ a := h1
    have h2' : 8 * (a - 0x80000000) < 64 := h2
    refine ⟨?_, ?_, Iff.rfl, ?_⟩
    · have h5 : 5 ≠ a := by omega
      simp [byteAt, elsewhere, memLookup, h5]
    · simp [InSome, elsewhere, cached, withBitset, issued, State.reset]
      omega
    · simp [elsewhere, cached, withBitset, issued, State.reset]
      omega
  · rcases h with ⟨r, hr, _⟩ | h
    · cases hr
    · cases h
theorem witness_UnnamedOperandsAreNotRead :
    exec .dlogMn64 (issued 7 1 2) = .next (after (exec .dlogMn64 (issued 7 1 2))) ∧
    (.p ∈ operandsOf .dlogMn64 → (7 : Wide) = (issued 7 1 2).latch.p) ∧
    (.a ∈ operandsOf .dlogMn64 → (5 : Wide) = (issued 7 1 2).latch.a) ∧
    (.b ∈ operandsOf .dlogMn64 → (6 : Wide) = (issued 7 1 2).latch.b) :=
  ⟨rfl, by decide, by decide, by decide⟩
/-- Vector M8: P_HI is not 0. -/
theorem witness_UpperHalvesAreIgnoredAtWidth64 :
    widthOf .mulmod64 = .w64 ∧ exec .mulmod64 (issued 13 7 11) = .next (after (exec .mulmod64 (issued 13 7 11))) ∧
    (0xFFFFFFFFFFFFFFFF000000000000000D : Wide).toNat % 2 ^ 64 = (issued 13 7 11).latch.p.toNat % 2 ^ 64 ∧
    (7 : Wide).toNat % 2 ^ 64 = (issued 13 7 11).latch.a.toNat % 2 ^ 64 ∧
    (11 : Wide).toNat % 2 ^ 64 = (issued 13 7 11).latch.b.toNat % 2 ^ 64 :=
  ⟨rfl, rfl, by decide, by decide, by decide⟩
theorem witness_MultiplierPath64IsExact : 0 < 2 ^ 63 - 1 ∧ 2 ^ 63 - 1 < 2 ^ 63 ∧ 2 ^ 63 - 2 < 2 ^ 63 - 1 := by decide
theorem witness_WideDatapathIsExact : 2 ^ 127 - 1 < 2 ^ 127 ∧ 0 < 2 ^ 127 - 1 ∧ 0 < 1 ∧ 1 < 2 ^ 127 := by decide
/-- For MULMOD and ADDMOD: a largest residue, p = 0, a = p, and a = −1. -/
theorem witness_MulmodFollowsItsRule :
    (.mulmod64, .w64) ∈ [(Instr.mulmod64, Width.w64), (.mulmod128, .w128)] ∧
    (opnd .w64 (issued 13 12 0).latch.p = 13 ∧ opnd .w64 (issued 13 12 0).latch.a = 12 ∧
      opnd .w64 (issued 13 12 0).latch.b = 0) ∧
    opnd .w64 (issued 0 1 1).latch.p = 0 ∧ opnd .w64 (issued 13 13 0).latch.a = 13 ∧
    opnd .w64 (issued 13 0xFFFFFFFFFFFFFFFF 0).latch.a = -1 := by decide
theorem witness_AddmodFollowsItsRule :
    (.addmod128, .w128) ∈ [(Instr.addmod64, Width.w64), (.addmod128, .w128)] ∧
    (opnd .w128 (issued 13 12 0).latch.p = 13 ∧ opnd .w128 (issued 13 12 0).latch.a = 12 ∧
      opnd .w128 (issued 13 12 0).latch.b = 0) ∧
    opnd .w128 (issued 0 1 1).latch.p = 0 ∧ opnd .w128 (issued 13 12 13).latch.b = 13 ∧
    opnd .w128 (issued 13 0xFFFFFFFFFFFFFFFFFFFFFFFFFFFFFFFF 0).latch.a = -1 := by decide
/-- For the exponentiation commands: p = 1 with k = 0, p = 0, an even p, and k = −1 with p = 1. -/
theorem witness_Pow2fFollowsItsRule :
    (.pow2f64, .w64) ∈ [(Instr.pow2f64, Width.w64), (.pow2f128, .w128)] ∧
    (opnd .w64 (issued 1 0 0).latch.p = 1 ∧ opnd .w64 (issued 1 0 0).latch.a = 0) ∧
    opnd .w64 (issued 0 0 0).latch.p = 0 ∧ opnd .w64 (issued 1 0xFFFFFFFFFFFFFFFF 0).latch.a = -1 := by decide
theorem witness_Pow2bFollowsItsRule :
    (.pow2b64, .w64) ∈ [(Instr.pow2b64, Width.w64), (.pow2b128, .w128)] ∧
    (opnd .w64 (issued 1 0 0).latch.p = 1 ∧ (1 : Int) % 2 = 1 ∧ opnd .w64 (issued 1 0 0).latch.a = 0) ∧
    opnd .w64 (issued 0 0 0).latch.p = 0 ∧ (opnd .w64 (issued 2 0 0).latch.p = 2 ∧ (2 : Int) % 2 = 0) ∧
    opnd .w64 (issued 1 0xFFFFFFFFFFFFFFFF 0).latch.a = -1 := by decide
theorem witness_Pow2lFollowsItsRule :
    (.pow2l128, .w128) ∈ [(Instr.pow2l64, Width.w64), (.pow2l128, .w128)] ∧
    (opnd .w128 (issued 1 0 0).latch.p = 1 ∧ opnd .w128 (issued 1 0 0).latch.a = 0) ∧
    opnd .w128 (issued 0 0 0).latch.p = 0 ∧
    opnd .w128 (issued 1 0xFFFFFFFFFFFFFFFFFFFFFFFFFFFFFFFF 0).latch.a = -1 := by decide
theorem witness_PowlFollowsItsRule :
    (.powl64, .w64) ∈ [(Instr.powl64, Width.w64), (.powl128, .w128)] ∧
    (opnd .w64 (issued 1 0 0).latch.p = 1 ∧ opnd .w64 (issued 1 0 0).latch.a = 0 ∧
      opnd .w64 (issued 1 0 0).latch.b = 0) ∧
    opnd .w64 (issued 0 0 0).latch.p = 0 ∧ opnd .w64 (issued 1 0xFFFFFFFFFFFFFFFF 0).latch.a = -1 ∧
    opnd .w64 (issued 1 0 0xFFFFFFFFFFFFFFFF).latch.b = -1 := by decide
theorem witness_ExponentiationsAgree :
    (0 < 223 ∧ 223 % 2 = 1) ∧ opnd .w64 (issued 223 37 2).latch.p = 223 ∧ opnd .w64 (issued 223 37 2).latch.a = 37 ∧
    opnd .w64 (issued 223 37 2).latch.b = 2 ∧ opnd .w128 (issued 223 37 2).latch.p = 223 ∧
    opnd .w128 (issued 223 37 2).latch.a = 37 ∧ opnd .w128 (issued 223 37 2).latch.b = 2 := by decide
/-- For the discrete logarithms: p = 1, p = 0, and an even p. -/
theorem witness_LinearDlogFindsTheOrder :
    (.dlogPl64, .w64) ∈ [(Instr.dlogMn64, Width.w64), (.dlogMn128, .w128), (.dlogPl64, .w64), (.dlogPl128, .w128)] ∧
    (opnd .w64 (issued 1 0 0).latch.p = 1 ∧ (1 : Int) % 2 = 1) ∧ opnd .w64 (issued 0 0 0).latch.p = 0 ∧
    (opnd .w64 (issued 2 0 0).latch.p = 2 ∧ (2 : Int) % 2 = 0) := by decide
theorem witness_BoundedLinearDlogObeysTheLimit :
    (.dlogMnLim64, .w64) ∈ [(Instr.dlogMnLim64, Width.w64), (.dlogMnLim128, .w128), (.dlogPlLim64, .w64),
      (.dlogPlLim128, .w128)] ∧
    (opnd .w64 (issued 223 37 0).latch.p = 223 ∧ (223 : Int) % 2 = 1 ∧ opnd .w64 (issued 223 37 0).latch.a = 37) ∧
    opnd .w64 (issued 0 37 0).latch.p = 0 ∧ (opnd .w64 (issued 2 37 0).latch.p = 2 ∧ (2 : Int) % 2 = 0) := by decide
theorem witness_BsgsFindsTheOrder :
    (.dlogBg64, .w64, 16, 2 ^ 63 - 1) ∈
      [(Instr.dlogBg64, Width.w64, 16, 2 ^ 63 - 1), (.dlogBg128, .w128, 32, 2 ^ 127 - 1)] ∧
    (opnd .w64 (issued 1 0 0 0x20).latch.p = 1 ∧ (1 : Int) % 2 = 1 ∧ 32 ≤ (issued 1 0 0 0x20).latch.budget.toNat) ∧
    opnd .w64 (issued 0 0 0).latch.p = 0 ∧ (opnd .w64 (issued 2 0 0).latch.p = 2 ∧ (2 : Int) % 2 = 0) := by decide
theorem witness_BoundedBsgsObeysTheLimit :
    (.dlogBgLim128, .w128, 32, 2 ^ 127 - 1) ∈
      [(Instr.dlogBgLim64, Width.w64, 16, 2 ^ 63 - 1), (.dlogBgLim128, .w128, 32, 2 ^ 127 - 1)] ∧
    (opnd .w128 (issued 1 2 0 0x20).latch.p = 1 ∧ (1 : Int) % 2 = 1 ∧ opnd .w128 (issued 1 2 0 0x20).latch.a = 2 ∧
      32 ≤ (issued 1 2 0 0x20).latch.budget.toNat) ∧
    opnd .w128 (issued 0 2 0).latch.p = 0 ∧ (opnd .w128 (issued 2 2 0).latch.p = 2 ∧ (2 : Int) % 2 = 0) := by decide
theorem witness_BsgsTableFitsTheBudget : 0 < 223 ∧ 223 < 2 ^ 127 ∧ 32 ≤ 32 := by decide
theorem witness_TrialDivisionDecidesPrimality :
    (.isprimeW30n64, .w64) ∈ [(Instr.isprime64, Width.w64), (.isprime128, .w128), (.isprimeW6n64, .w64),
      (.isprimeW6n128, .w128), (.isprimeW30n64, .w64), (.isprimeW30n128, .w128)] ∧
    opnd .w64 (issued 2 0 0).latch.p = 2 ∧ opnd .w64 (issued 1 0 0).latch.p = 1 := by decide
/-- The region of the test bitset ends at 0x80000008. -/
theorem witness_region : RegionFits (cached 63 64).latch := ⟨8, by decide, by decide⟩
/-- A region that wraps (vector X21). -/
theorem witness_region_wraps : ¬ RegionFits (issued 0 0 0 0x100000 0xFFFFFFFFFFFFFFFF 16).latch := by
  rintro ⟨q, h1, h2⟩
  simp [issued] at h1 h2
  omega
/-- The test bitset lies in idempotent memory. -/
theorem witness_idempotent (n lim : Wide) : BitsetIsIdempotent (cached n lim) := by
  rintro a - ⟨r, hr, _⟩
  cases hr
/-- The first byte of the test bitset is not idempotent here. -/
theorem witness_not_idempotent :
    ¬ BitsetIsIdempotent { cached 37 30 with volatile := [⟨0x80000000, 1⟩] } := fun h =>
  h 0x80000000 ⟨by decide, by decide⟩ (by decide)
/-- For the last bit of the bitset: a known byte, a byte that is not readable, and n = BSLEN, n = −1. -/
theorem witness_IsprimeCReadsItsBit :
    (.isprimeC64, .w64) ∈ [(Instr.isprimeC64, Width.w64), (.isprimeC128, .w128)] ∧ (cached 63 0).bytesRead = [] ∧
    (opnd .w64 (cached 63 0).latch.p = 63 ∧ 63 < (cached 63 0).latch.bsLen.toNat ∧
      KnownByte (cached 63 0) (bitByteAddress (cached 63 0).latch 63) 0xD7) ∧
    ¬ InSome { cached 63 0 with readable := [] }.readable (bitByteAddress (cached 63 0).latch 63) ∧
    opnd .w64 (cached 64 0).latch.p = 64 ∧ ((cached 64 0).latch.bsLen.toNat : Int) ≤ 64 ∧
    opnd .w64 (cached 0xFFFFFFFFFFFFFFFF 0).latch.p = -1 := by decide
/-- A byte that nothing has stored is known too: it is what memory holds. -/
theorem witness_unwritten_byte : KnownByte { cached 37 0 with mem := [] } 0x80000004 (Config.unwrittenByte 0x80000004) :=
  ⟨by decide, by decide, rfl⟩
/-- A scan from 28 with a limit of 30, where another agent has stored to the byte of bits 24 to 31 since the issue. -/
def stored : State := { cached 28 30 with touched := [0x80000003] }

theorem witness_UnspecifiedByteIsFree :
    (.isprimeC64, .w64, 2 ^ 63) ∈ [(Instr.isprimeC64, Width.w64, 2 ^ 63), (.isprimeC128, .w128, 2 ^ 127)] ∧
    (.nextprimeC64, .w64, 2 ^ 63) ∈ [(Instr.nextprimeC64, Width.w64, 2 ^ 63), (.nextprimeC128, .w128, 2 ^ 127)] ∧
    stored.bytesRead = [] ∧ opnd .w64 stored.latch.p = 28 ∧ 28 < stored.latch.bsLen.toNat ∧
    opnd .w64 stored.latch.a = 30 ∧ (30 : Int) ≤ (stored.latch.bsLen.toNat : Int) ∧
    InSome stored.readable (bitByteAddress stored.latch 28) ∧ FreeByteAt stored (bitByteAddress stored.latch 28) ∧
    ¬ FreeByteAt (cached 28 30) (bitByteAddress stored.latch 28) ∧
    InSome stored.readable (bitByteAddress stored.latch 29) ∧ FreeByteAt stored (bitByteAddress stored.latch 29) :=
  ⟨by decide, by decide, rfl, by decide, by decide, by decide, by decide, by decide, by decide, by decide, by decide,
    by decide⟩
/-- With bit 29 read from the known byte 0x5F the scan ends there; a limit of 29 ends it before any read, and so does an
unreadable byte, after one. -/
theorem witness_UnspecifiedByteIsFree_scan :
    byteScanned (cached 28 30) 28 29 = 0x5F ∧ (0x5F#8).toNat / 2 ^ (29 % 8) % 2 = 0 ∧ (29 : Int) < 30 ∧
    opnd .w64 (cached 28 29).latch.a = 29 ∧
    ¬ InSome { cached 28 30 with readable := [] }.readable (bitByteAddress (cached 28 30).latch 29) ∧
    (∀ k, 28 < k → k < 29 → InSome (cached 28 30).readable (bitByteAddress (cached 28 30).latch k)) :=
  ⟨by decide, by decide, by decide, by decide, by decide, fun k h1 h2 => by omega⟩
/-- For a scan from 23: index 29 is the first clear bit; the limit 29 ends it; its byte is not readable; the limit 3 lies
below it; and the limit 65 exceeds BSLEN. -/
theorem witness_NextprimeCFindsTheNextClearBit :
    (.nextprimeC64, .w64) ∈ [(Instr.nextprimeC64, Width.w64), (.nextprimeC128, .w128)] ∧
    (opnd .w64 (cached 23 30).latch.p = 23 ∧ opnd .w64 (cached 23 30).latch.a = 30 ∧
      (30 : Int) ≤ ((cached 23 30).latch.bsLen.toNat : Int) ∧ (cached 23 30).bytesRead = []) ∧
    (∀ k ∈ [24, 25, 26, 27, 28], KnownByte (cached 23 30) (bitByteAddress (cached 23 30).latch k) 0x5F ∧
      (0x5F#8).toNat / 2 ^ (k % 8) % 2 = 1) ∧
    (KnownByte (cached 23 30) (bitByteAddress (cached 23 30).latch 29) 0x5F ∧ (0x5F#8).toNat / 2 ^ (29 % 8) % 2 = 0) ∧
    ¬ InSome { cached 23 30 with readable := [] }.readable (bitByteAddress (cached 23 30).latch 24) ∧
    (opnd .w64 (cached 23 29).latch.a = 29 ∧ opnd .w64 (cached 23 3).latch.a = 3 ∧
      opnd .w64 (cached 23 65).latch.a = 65 ∧ ((cached 23 65).latch.bsLen.toNat : Int) < 65) :=
  ⟨by decide, by decide, by decide, by decide, by decide, by decide⟩
/-- NEXTPRIME_C.64 from 23 to 30 runs, with one read made, and the given events are to come. -/
def scanning (es : List Event) : State :=
  { cached 23 30 with
    latch := { (cached 23 30).latch with cmd := 0x25 }, bytesRead := [some 0x5F], inputs := .blockRead :: es }

/-- The second read is of bit 25: a known byte, a byte that another agent stores before the completion, and a bus error. -/
theorem witness_BlockReadTakesTheNextByte :
    (.nextprimeC64, .w64) ∈ [(Instr.nextprimeC64, Width.w64), (.nextprimeC128, .w128)] ∧
    (29 : Int) + 1 = opnd .w64 (scanning []).latch.a ∧ (29 : Int) < ((scanning []).latch.bsLen.toNat : Int) ∧
    (scanning []).status.busy = true ∧ decode (scanning []).latch.cmd = .ok .nextprimeC64 ∧
    opnd .w64 (scanning []).latch.p = 23 ∧ (scanning []).bytesRead = [0x5F#8].map some ∧
    ((24 + [0x5F#8].length : Nat) : Int) ≤ 29 ∧ (0x5F#8).toNat / 2 ^ (24 % 8) % 2 = 1 ∧
    (InSome (scanning []).readable 0x80000003 ∧ ¬ FreeByteAt (scanning []) 0x80000003) ∧
    0x80000003 ∈ storesToCome [.memStore 0x80000003 1, .completion] ∧
    0x80000003 ∉ storesToCome [.completion, .memStore 0x80000003 1] ∧
    ¬ InSome { scanning [] with readable := [] }.readable 0x80000003 :=
  ⟨by decide, by decide, by decide, rfl, rfl, by decide, rfl, by decide, by decide, by decide, by decide, by decide,
    by decide⟩
theorem witness_ReadingEarlyChangesNoResult :
    (scanning [rd .status]).status.busy = true ∧ decode (scanning [rd .status]).latch.cmd = .ok .nextprimeC64 ∧
    (scanning [rd .status]).inputs = .blockRead :: [rd .status] ∧ storesToCome [rd .status] = [] ∧
    step (scanning [rd .status]) = .next (after (step (scanning [rd .status]))) := ⟨rfl, rfl, rfl, rfl, rfl⟩
/-- A reachable state that meets the invariant while a command runs. -/
theorem witness_StepKeepsTheInvariant :
    Inv (latchCommand 1 State.reset) ∧ (latchCommand 1 State.reset).status.busy = true ∧
    (latchCommand 1 State.reset).errcode ≠ 7#8 ∧
    step (latchCommand 1 State.reset) = .next (after (step (latchCommand 1 State.reset))) := by
  refine ⟨⟨?_, ?_, ?_, ?_, ?_, ?_, ?_, ?_, ?_⟩, ?_, ?_, ?_⟩ <;> first | decide | rfl
theorem witness_NoStepReportsExhausted :
    Inv (latchCommand 0x12 State.reset) ∧ (latchCommand 0x12 State.reset).errcode ≠ 7#8 ∧
    step (latchCommand 0x12 State.reset) = .next (after (step (latchCommand 0x12 State.reset))) := by
  refine ⟨⟨?_, ?_, ?_, ?_, ?_, ?_, ?_, ?_, ?_⟩, ?_, ?_⟩ <;> first | decide | rfl
theorem witness_PlatformParametersAreFixed :
    step (running 1 [.reset]) = .next (after (step (running 1 [.reset]))) := rfl

end Sys2Proof.Tests
end

section
/-! THEOREMS. The operand value of a latch, written with the latch's unsigned value (R11, R119). -/

namespace Sys2Proof.Machine

/-- Two's complement with the sign bit told by one comparison: half the range is non-negative (R11). -/
theorem toInt_eq_ite_lt_half {n : Nat} (x : BitVec (n + 1)) :
    x.toInt = if x.toNat < 2 ^ n then (x.toNat : Int) else (x.toNat : Int) - 2 ^ (n + 1) := by
  have sign_bit_iff : 2 * x.toNat < 2 ^ (n + 1) ↔ x.toNat < 2 ^ n := by
    rw [pow_succ]
    omega
  simp only [BitVec.toInt_eq_toNat_cond, sign_bit_iff, Nat.cast_pow, Nat.cast_ofNat]

/-- At W = 64 an operand is read from the latch modulo 2^64 (R119). -/
theorem opnd_w64_eq (x : Wide) :
    opnd .w64 x = if x.toNat % 2 ^ 64 < 2 ^ 63 then (x.toNat % 2 ^ 64 : Int)
      else (x.toNat % 2 ^ 64 : Int) - 2 ^ 64 := by
  have signed_low_half := toInt_eq_ite_lt_half (n := 63) (x.setWidth 64)
  rw [BitVec.toNat_setWidth] at signed_low_half
  exact_mod_cast signed_low_half

/-- At W = 128 an operand is the whole latch (R119). -/
theorem opnd_w128_eq (x : Wide) :
    opnd .w128 x = if x.toNat < 2 ^ 127 then (x.toNat : Int) else (x.toNat : Int) - 2 ^ 128 :=
  toInt_eq_ite_lt_half (n := 127) x

/-- Settles O33, one width at a time: the low half is the latch modulo 2^64, and both widths read it in
two's complement. -/
theorem operandsAreSigned : Obligations.OperandsAreSigned :=
  fun x => ⟨opnd_w64_eq x, opnd_w128_eq x⟩

end Sys2Proof.Machine
end

section
/-! THEOREMS. What one step does with each event of the block's history (10_state.md R49, R51; 20_memory.md R90), and
the statements that follow from it alone. -/

namespace Sys2Proof.Machine

/-! ### Completions -/

/-- `s` after its running command has run and completed (R49, R117, R251). -/
def completeRun (s : State) : State :=
  match decode s.latch.cmd with
  | .ok i => finish (widthOf i) (runOf i s).1 (runOf i s).2
  | .error _ => completeError .illegalCommand false false s

theorem runCommand_eq (s : State) : runCommand s = .next (completeRun s) := by
  unfold runCommand completeRun fetchedWord
  cases decode s.latch.cmd with
  | ok i => exact exec_eq i s
  | error _ => rfl

theorem exec_eq_completeRun {i : Instr} {s : State} (hi : decode s.latch.cmd = .ok i) :
    exec i s = .next (completeRun s) := by
  rw [exec_eq, completeRun, hi]

/-- A command's completion is a successful or an error completion of the state after its reads (R49). -/
theorem completeRun_cases (s : State) : ∃ u, ReadsOnly s u ∧
    ((∃ w r deg cap, completeRun s = completeSuccess w r deg cap u) ∨
     (∃ e deg cap, completeRun s = completeError e deg cap u)) := by
  cases hi : decode s.latch.cmd with
  | ok i =>
    obtain ⟨u, hu, ⟨r, deg, cap, _, h⟩ | ⟨e, deg, cap, _, h⟩⟩ := exec_cases i s _ (exec_eq_completeRun hi)
    · exact ⟨u, hu, .inl ⟨_, r, deg, cap, h⟩⟩
    · exact ⟨u, hu, .inr ⟨e, deg, cap, h⟩⟩
  | error _ => exact ⟨s, .refl s, .inr ⟨.illegalCommand, false, false, by simp [completeRun, hi]⟩⟩

theorem completeRun_inputs (s : State) : (completeRun s).inputs = s.inputs := by
  obtain ⟨_, ⟨_, _, _, rfl⟩, ⟨_, _, _, _, h⟩ | ⟨_, _, _, h⟩⟩ := completeRun_cases s <;> simp [h]

theorem completeRun_idle (s : State) : (completeRun s).status.busy = false := by
  obtain ⟨_, _, ⟨_, _, _, _, h⟩ | ⟨_, _, _, h⟩⟩ := completeRun_cases s <;> simp [h]

/-! ### The step, event by event -/

/-- `s` after an event that has been taken from the list of those to come (R90). -/
def afterEvent (e : Event) (s : State) : State :=
  match e with
  | .hostRead n o => hostRead n o s
  | .hostWrite n o v => hostWrite n o v s
  | .memStore a b => memStore a b s
  | .blockRead => if s.status.busy then readAhead s else s
  | .completion => if s.status.busy then completeRun s else s
  | .reset => resetBlock s

theorem step_cons {s : State} {e : Event} {rest : List Event} (h : s.inputs = e :: rest) :
    step s = .next (afterEvent e { s with inputs := rest }) := by
  unfold step
  rw [h]
  cases e with
  | completion =>
    dsimp only [afterEvent]
    split
    · exact runCommand_eq _
    · rfl
  | blockRead | hostRead _ _ | hostWrite _ _ _ | memStore _ _ | reset => rfl

/-- With no event left, a step is the completion of a running command (R51, log 8). -/
theorem step_nil {s : State} (h : s.inputs = []) : step s = .next (afterEvent .completion s) := by
  unfold step afterEvent
  rw [h]
  dsimp only
  split
  · exact runCommand_eq _
  · rfl

/-- A step is an event on the state without it, or the completion event where none is left. -/
theorem step_cases {s t : State} (h : step s = .next t) :
    (s.inputs = [] ∧ t = afterEvent .completion s) ∨
    ∃ e rest, s.inputs = e :: rest ∧ t = afterEvent e { s with inputs := rest } := by
  cases hin : s.inputs with
  | nil => rw [step_nil hin] at h; cases h; exact .inl ⟨rfl, rfl⟩
  | cons e rest => rw [step_cons hin] at h; cases h; exact .inr ⟨e, rest, rfl, rfl⟩

/-- Settles O4: the completion event, or the end of the list, completes the run of the latched command. -/
theorem stepRunsTheDecodedCommand : Obligations.StepRunsTheDecodedCommand := by
  intro s i rest _ hbusy hi
  refine ⟨fun hin => ?_, fun hin => ?_⟩
  · rw [step_nil hin, afterEvent, if_pos hbusy, exec_eq_completeRun hi]
  · rw [step_cons hin, afterEvent, if_pos hbusy, exec_eq_completeRun (s := { s with inputs := rest }) hi]

/-! ### The events to come -/

theorem issue_of_busy {s : State} (c : Word) (h : s.status.busy = true) :
    issue c s = { s with status := statusAfterDrop s.status } := if_pos h

theorem issue_of_idle {s : State} (c : Word) (h : s.status.busy = false) : issue c s = latchCommand c s := by
  simp [issue, h]

theorem writeReg_inputs (r : Reg) (v : Word) (s : State) : (writeReg r v s).inputs = s.inputs := by
  cases r with
  | cmd =>
    cases hb : s.status.busy with
    | true => rw [writeReg, issue_of_busy v hb]
    | false => rw [writeReg, issue_of_idle v hb, latchCommand_inputs]
  | _ => rfl

theorem hostWrite_inputs (n : Nat) (o : Offset) (v : Word) (s : State) : (hostWrite n o v s).inputs = s.inputs := by
  unfold hostWrite windowWrite
  split
  · split
    · exact writeReg_inputs _ v s
    · rfl
  · rfl

theorem ReadsOnly.inputs {s t : State} (h : ReadsOnly s t) : t.inputs = s.inputs := by
  obtain ⟨_, _, _, rfl⟩ := h; rfl

/-- No event adds to the events to come. -/
theorem afterEvent_inputs (e : Event) (s : State) : (afterEvent e s).inputs = s.inputs := by
  cases e with
  | hostRead n o => dsimp only [afterEvent, hostRead]; split <;> rfl
  | hostWrite n o v => exact hostWrite_inputs n o v s
  | memStore a b => rfl
  | blockRead => dsimp only [afterEvent]; split; exacts [(readAhead_readsOnly s).inputs, rfl]
  | completion => dsimp only [afterEvent]; split; exacts [completeRun_inputs s, rfl]
  | reset => rfl

theorem afterEvent_completion_idle (s : State) : (afterEvent .completion s).status.busy = false := by
  dsimp only [afterEvent]
  split
  · exact completeRun_idle s
  · rename_i h; simpa using h

theorem run_succ_of_step {s t : State} (k : Nat) (h : step s = .next t) :
    Host.Core.run Sys2Proof.core (k + 1) s = Host.Core.run Sys2Proof.core k t := by
  have hcore : Sys2Proof.core.step s = .next t := h
  simp only [Host.Core.run, hcore]

/-- Settles O7, by induction on the events to come: each step takes one, and the step after the last completes what
still runs. -/
theorem blockComesToIdle : Obligations.BlockComesToIdle := by
  suffices h : ∀ (es : List Event) (s : State), s.inputs = es → ∃ t : State,
      Host.Core.run Sys2Proof.core (es.length + 1) s = .next t ∧ t.status.busy = false ∧ t.inputs = [] from
    fun s => h s.inputs s rfl
  intro es
  induction es with
  | nil =>
    intro s hin
    refine ⟨_, run_succ_of_step 0 (step_nil hin), afterEvent_completion_idle s, ?_⟩
    rw [afterEvent_inputs, hin]
  | cons e rest ih =>
    intro s hin
    rw [List.length_cons, run_succ_of_step _ (step_cons hin)]
    exact ih _ (afterEvent_inputs e _)

/-! ### A running command -/

/-- `t` is `s` as far as a running command shows it: it still runs, with the latches, the result, the error code and the
report bits as they were (R50, R60). -/
structure StillRunning (s t : State) : Prop where
  busy     : t.status.busy = true
  latch    : t.latch = s.latch
  rLo      : t.rLo = s.rLo
  rHi      : t.rHi = s.rHi
  errcode  : t.errcode = s.errcode
  err      : t.status.err = s.status.err
  degraded : t.status.degraded = s.status.degraded
  capped   : t.status.capped = s.status.capped

theorem StillRunning.refl {s : State} (h : s.status.busy = true) : StillRunning s s :=
  ⟨h, rfl, rfl, rfl, rfl, rfl, rfl, rfl⟩

/-- A register write leaves a running command alone; a command write is dropped (R48, R60). -/
theorem writeReg_stillRunning (r : Reg) (v : Word) {s : State} (h : s.status.busy = true) :
    StillRunning s (writeReg r v s) := by
  cases r with
  | cmd => rw [writeReg, issue_of_busy v h]; exact { StillRunning.refl h with }
  | _ => exact { StillRunning.refl h with }

theorem hostWrite_stillRunning (n : Nat) (o : Offset) (v : Word) {s : State} (h : s.status.busy = true) :
    StillRunning s (hostWrite n o v s) := by
  unfold hostWrite windowWrite
  split
  · split
    · exact { writeReg_stillRunning _ v h with }
    · exact { StillRunning.refl h with }
  · exact { StillRunning.refl h with }

theorem ReadsOnly.stillRunning {s t : State} (h : ReadsOnly s t) (hbusy : s.status.busy = true) : StillRunning s t := by
  obtain ⟨_, _, _, rfl⟩ := h
  exact { StillRunning.refl hbusy with }

/-- Only the completion and a reset end a running command or change what it shows. -/
theorem afterEvent_stillRunning {e : Event} {s : State} (hc : e ≠ .completion) (hr : e ≠ .reset)
    (h : s.status.busy = true) : StillRunning s (afterEvent e s) := by
  cases e with
  | hostRead n o => dsimp only [afterEvent, hostRead]; split <;> exact { StillRunning.refl h with }
  | hostWrite n o v => exact hostWrite_stillRunning n o v h
  | memStore a b => exact { StillRunning.refl h with }
  | blockRead => rw [afterEvent, if_pos h]; exact (readAhead_readsOnly s).stillRunning h
  | completion => exact absurd rfl hc
  | reset => exact absurd rfl hr

/-- Settles O8: a step on such an event is that event, which leaves the command running. -/
theorem runningCommandIsUndisturbed : Obligations.RunningCommandIsUndisturbed := by
  intro s t e rest hin hc hr hbusy hstep
  rw [step_cons hin] at hstep
  cases hstep
  have h := afterEvent_stillRunning (s := { s with inputs := rest }) hc hr hbusy
  exact ⟨h.busy, h.latch, h.rLo, h.rHi, h.errcode, h.err, h.degraded, h.capped⟩

end Sys2Proof.Machine
end

section
/-! THEOREMS. The register window: what one host access does at each offset (10_state.md R30 to R45, R48), and the
operand writes of host scripts (30_encoding.md R127). -/

namespace Sys2Proof.Machine

/-! ### Offsets -/

theorem regAt_offsetOf (r : Reg) : regAt (offsetOf r) = some r := by cases r <;> rfl

theorem accepted_offsetOf (r : Reg) : accepted 8 (offsetOf r) = true := by cases r <;> rfl

/-- The registers end at 0x078 (R33, R34). -/
theorem regAt_reserved {o : Offset} (h : 0x080 ≤ o.toNat) : regAt o = none := by
  unfold regAt
  split
  case h_17 => rfl
  all_goals omega

theorem accepted_of_aligned {o : Offset} (h : o.toNat % 8 = 0) : accepted 8 o = true := by simp [accepted, h]

theorem not_accepted {width : Nat} {o : Offset} (h : width ≠ 8 ∨ o.toNat % 8 ≠ 0) : accepted width o = false := by
  rw [accepted, decide_eq_false_iff_not]
  tauto

/-! ### One step of a host access -/

theorem step_read_reg {s : State} {rest : List Event} (r : Reg) (h : s.inputs = .hostRead 8 (offsetOf r) :: rest) :
    step s = .next { s with inputs := rest, responses := s.responses ++ [.data (readReg r s)] } := by
  rw [step_cons h, afterEvent, hostRead, if_pos (accepted_offsetOf r), windowRead, regAt_offsetOf]
  cases r <;> rfl

theorem step_write_reg {s : State} {rest : List Event} (r : Reg) {v : Word}
    (h : s.inputs = .hostWrite 8 (offsetOf r) v :: rest) :
    step s = .next (respond .ack (writeReg r v { s with inputs := rest })) := by
  rw [step_cons h, afterEvent, hostWrite, if_pos (accepted_offsetOf r), windowWrite, regAt_offsetOf]

/-- Settles O10: neither access is accepted. -/
theorem refusedAccessHasNoEffect : Obligations.RefusedAccessHasNoEffect := by
  intro s rest width o v h
  refine ⟨fun hin => ?_, fun hin => ?_⟩
  · simp [step_cons hin, afterEvent, hostRead, not_accepted h, respond]
  · simp [step_cons hin, afterEvent, hostWrite, not_accepted h, respond]

/-- Settles O12: no register stands at a reserved offset. -/
theorem reservedOffsetsAreInert : Obligations.ReservedOffsetsAreInert := by
  intro s rest o v hlow halign
  refine ⟨fun hin => ?_, fun hin => ?_⟩
  · simp [step_cons hin, afterEvent, hostRead, accepted_of_aligned halign, windowRead, regAt_reserved hlow, respond]
  · simp [step_cons hin, afterEvent, hostWrite, accepted_of_aligned halign, windowWrite, regAt_reserved hlow, respond]

/-! ### Reads -/

/-- A concatenation is a two-digit number: the upper part counts in units of 2^n. -/
theorem toNat_append_eq_add {m n : Nat} (x : BitVec m) (y : BitVec n) :
    (x ++ y).toNat = x.toNat * 2 ^ n + y.toNat := by
  rw [BitVec.toNat_append, ← Nat.shiftLeft_add_eq_or_of_lt y.isLt, Nat.shiftLeft_eq]

/-- STATUS as a number: bit k has the weight 2^k (R39). -/
theorem statusWord_eq (t : Status) : statusWord t = BitVec.ofNat 64 (t.busy.toNat + 2 * t.done.toNat +
    4 * t.err.toNat + 8 * t.degraded.toNat + 16 * t.capped.toNat + 32 * t.ovr.toNat) := by
  apply BitVec.eq_of_toNat_eq
  have hbusy := t.busy.toNat_lt
  have hdone := t.done.toNat_lt
  have herr := t.err.toNat_lt
  have hdegraded := t.degraded.toNat_lt
  have hcapped := t.capped.toNat_lt
  have hovr := t.ovr.toNat_lt
  simp only [statusWord, toNat_append_eq_add, BitVec.toNat_ofBool, BitVec.toNat_ofNat]
  omega

theorem ctrlWord_eq (ie : Bool) : ctrlWord ie = BitVec.ofNat 64 ie.toNat := by cases ie <;> rfl

theorem errcodeWord_eq (e : BitVec 8) : errcodeWord e = BitVec.ofNat 64 e.toNat := by
  apply BitVec.eq_of_toNat_eq
  have he := e.isLt
  rw [errcodeWord, toNat_append_eq_add, BitVec.toNat_ofNat, BitVec.toNat_ofNat]
  omega

/-- The registers of the window, by rising offset (R33). -/
def windowRegs : List Reg :=
  [.id, .ctrl, .cmd, .status, .errcode, .tblBudget, .bsBase, .bsLen, .pLo, .pHi, .aLo, .aHi, .bLo, .bHi, .rLo, .rHi]

/-- Settles O11: the listed offsets and values are those of the registers, in their order. -/
theorem readReturnsTheRegister : Obligations.ReadReturnsTheRegister := by
  intro s rest o v hin hmem
  rw [← ctrlWord_eq, ← statusWord_eq, ← errcodeWord_eq] at hmem
  have hreg : (o, v) ∈ windowRegs.map fun r => (offsetOf r, readReg r s) := hmem
  obtain ⟨r, _, heq⟩ := List.mem_map.1 hreg
  cases heq
  exact step_read_reg r hin

/-! ### Writes -/

/-- Settles O17: each of the eight offsets is that of one register, and its write stores there. -/
theorem operandWriteStoresTheWord : Obligations.OperandWriteStoresTheWord := by
  intro s t rest o v hin hmem
  simp only [List.mem_cons, Prod.mk.injEq, List.not_mem_nil, or_false] at hmem
  obtain ⟨rfl, rfl⟩ | ⟨rfl, rfl⟩ | ⟨rfl, rfl⟩ | ⟨rfl, rfl⟩ | ⟨rfl, rfl⟩ | ⟨rfl, rfl⟩ | ⟨rfl, rfl⟩ | ⟨rfl, rfl⟩ := hmem
  exacts [step_write_reg .bsBase hin, step_write_reg .bsLen hin, step_write_reg .pLo hin, step_write_reg .pHi hin,
    step_write_reg .aLo hin, step_write_reg .aHi hin, step_write_reg .bLo hin, step_write_reg .bHi hin]

/-- Settles O18: a command write is dropped while BUSY, and latches otherwise. -/
theorem commandWriteIssues : Obligations.CommandWriteIssues := by
  intro s rest c hin
  have hstep := step_write_reg .cmd hin
  rw [writeReg] at hstep
  refine ⟨fun hbusy => ?_, fun hidle => ?_⟩
  · rw [hstep, issue_of_busy (s := { s with inputs := rest }) c hbusy]; rfl
  · rw [hstep, issue_of_idle (s := { s with inputs := rest }) c hidle]; rfl

theorem getLsbD_eq_decide (v : Word) (k : Nat) : v.getLsbD k = decide (v.toNat / 2 ^ k % 2 = 1) := by
  rw [BitVec.getLsbD, Nat.testBit_eq_decide_div_mod_eq]

/-- A flag that a bit of the written value clears (R40). -/
theorem and_not_getLsbD (b : Bool) (v : Word) (k : Nat) :
    (b && !v.getLsbD k) = if v.toNat / 2 ^ k % 2 = 1 then false else b := by
  rw [getLsbD_eq_decide]
  split <;> rename_i h <;> simp [h]

/-- Settles O14: bits 1 and 5 clear their flags. -/
theorem statusWriteClearsDoneAndOvr : Obligations.StatusWriteClearsDoneAndOvr := by
  intro s rest v hin
  rw [step_write_reg .status hin, writeReg, statusAfterWrite, and_not_getLsbD, and_not_getLsbD]
  rfl

theorem statusAfterWrite_of_clear {v : Word} (t : Status) (h1 : v.getLsbD 1 = false) (h5 : v.getLsbD 5 = false) :
    statusAfterWrite v t = t := by
  simp only [statusAfterWrite, h1, h5, Bool.not_false, Bool.and_true]

/-- Settles O13: a read-only register takes no write, and STATUS none without bits 1 and 5. -/
theorem readOnlyRegistersIgnoreWrites : Obligations.ReadOnlyRegistersIgnoreWrites := by
  intro s rest v
  refine ⟨fun o ho hin => ?_, fun hin => ?_, fun hin => step_read_reg .cmd hin⟩
  · simp only [List.mem_cons, List.not_mem_nil, or_false] at ho
    obtain rfl | rfl | rfl | rfl := ho
    exacts [step_write_reg .id hin, step_write_reg .errcode hin, step_write_reg .rLo hin, step_write_reg .rHi hin]
  · have hmask (k : Nat) (hk : (~~~ 0x22#64).getLsbD k = false) : (v &&& ~~~ 0x22#64).getLsbD k = false := by
      rw [BitVec.getLsbD_and, hk, Bool.and_false]
    rw [step_write_reg .status hin, writeReg, statusAfterWrite_of_clear _ (hmask 1 rfl) (hmask 5 rfl)]
    rfl

/-- Settles O15: a CTRL write stores bit 0 of the value. -/
theorem ctrlWriteSetsInterruptEnable : Obligations.CtrlWriteSetsInterruptEnable := by
  refine ⟨rfl, fun s rest v hin => ?_⟩
  have hbit : v.getLsbD 0 = decide (v.toNat % 2 = 1) := by simpa using getLsbD_eq_decide v 0
  rw [step_write_reg .ctrl hin, writeReg, hbit]
  rfl

/-- The clamped value is a legal budget (R42). -/
theorem legalBudget_toNat (v : Word) : (legalBudget v).toNat = min (max v.toNat 32) 1048576 := by
  rw [legalBudget, BitVec.toNat_ofNat, Config.budgetFloor, Config.tableBytes]
  omega

/-- Settles O16: a TBLBUDGET write stores the clamped value. -/
theorem tblBudgetWriteIsClamped : Obligations.TblBudgetWriteIsClamped := by
  refine ⟨rfl, fun s rest v hin => ⟨legalBudget v, legalBudget_toNat v, ?_, ?_, step_write_reg .tblBudget hin⟩⟩
  all_goals rw [legalBudget_toNat]; omega

/-- Settles O22: `State.reset` holds these values, field by field. -/
theorem resetRegisterValues : Obligations.ResetRegisterValues :=
  ⟨rfl, rfl, rfl, rfl, rfl, rfl, rfl, rfl, rfl, rfl, rfl, rfl, rfl, rfl, rfl, rfl⟩

/-! ### Platform addresses -/

/-- The window's base has twelve zero bits, and an offset takes their place (R30). -/
theorem windowAddress_eq_append (o : Offset) : windowAddress o = Config.blockPage ++ o := by
  have hwide : o.setWidth 64 = 0#52 ++ o := BitVec.setWidth_eq_append (by decide)
  rw [windowAddress, Config.blockBase, hwide]
  exact BitVec.append_zero_add_zero_append

/-- Settles O19: the upper 52 bits of the address are the window's page, the lower 12 the offset. -/
theorem windowAddressesRoundTrip : Obligations.WindowAddressesRoundTrip := by
  refine ⟨?_, fun o => ?_⟩
  · rw [Config.blockBase, toNat_append_eq_add, BitVec.toNat_ofNat]
    omega
  · rw [windowAddress_eq_append, windowOffset, if_pos BitVec.extractLsb'_append_eq_left,
      BitVec.extractLsb'_append_eq_right]

/-! ### wr128 -/

/-- Two halves that were written as v mod 2^64 and v div 2^64 make v mod 2^128 (R10, R127). -/
theorem append_halves_toNat (v : Int) :
    ((BitVec.ofNat 64 ((v % 2 ^ 128).toNat / 2 ^ 64) ++ BitVec.ofNat 64 (v % 2 ^ 64).toNat : Wide).toNat : Int) =
      v % 2 ^ 128 := by
  rw [toNat_append_eq_add, BitVec.toNat_ofNat, BitVec.toNat_ofNat]
  omega

/-- `s` after the two writes of wr128, each answered. -/
def afterWr128 (x : OperandReg) (lo hi : Word) (s : State) : State :=
  respond .ack (writeReg (hiReg x) hi (respond .ack (writeReg (loReg x) lo { s with inputs := [] })))

theorem operandValue_afterWr128_same (x : OperandReg) (lo hi : Word) (s : State) :
    operandValue (afterWr128 x lo hi s) x = hi ++ lo := by
  cases x <;> rfl

theorem operandValue_afterWr128_other {x y : OperandReg} (lo hi : Word) (s : State) (h : y ≠ x) :
    operandValue (afterWr128 x lo hi s) y = operandValue s y := by
  cases x with
  | p => cases y with
    | p => exact absurd rfl h
    | a | b => rfl
  | a => cases y with
    | a => exact absurd rfl h
    | p | b => rfl
  | b => cases y with
    | b => exact absurd rfl h
    | p | a => rfl

/-- Two writes that are all that is to come, of the halves of one operand register, run in two steps. -/
theorem run_wr128 {s : State} {x : OperandReg} {lo hi : Word} (h : s.inputs = [wr (loReg x) lo, wr (hiReg x) hi]) :
    Host.Core.run Sys2Proof.core 2 s = .next (afterWr128 x lo hi s) := by
  have hrest : (respond .ack (writeReg (loReg x) lo { s with inputs := [wr (hiReg x) hi] })).inputs =
    [wr (hiReg x) hi] := writeReg_inputs _ _ _
  rw [run_succ_of_step 1 (step_write_reg (loReg x) h), run_succ_of_step 0 (step_write_reg (hiReg x) hrest)]
  cases x <;> rfl

/-- Settles O20: the two writes of wr128 are two steps, and fill the two halves. -/
theorem wr128StoresTheOperand : Obligations.Wr128StoresTheOperand := by
  intro s x v hin
  refine ⟨_, run_wr128 hin, ?_, fun y hy => operandValue_afterWr128_other _ _ s hy⟩
  rw [operandValue_afterWr128_same]
  exact append_halves_toNat v

end Sys2Proof.Machine
end

section
/-! THEOREMS. How commands end: the frame of a completion and the flags it reports (10_state.md R49, R52;
60_exceptions.md R255, R256). -/

namespace Sys2Proof.Machine

open Sys2Proof.Safety

/-! ### The frame of a completion -/

theorem completeSuccess_eq_afterSuccess (w : Width) (r : Nat) (deg cap : Bool) (as : List Nat) (n : Nat)
    (xs : List (Option Byte)) (s : State) :
    completeSuccess w r deg cap { s with reads := s.reads ++ as, draws := s.draws + n, bytesRead := xs } =
      afterSuccess w r deg cap (afterReads as n s) := by
  cases w <;> rfl

theorem completeError_eq_afterError (e : ErrorCode) (deg cap : Bool) (as : List Nat) (n : Nat)
    (xs : List (Option Byte)) (s : State) :
    completeError e deg cap { s with reads := s.reads ++ as, draws := s.draws + n, bytesRead := xs } =
      afterError (errorByte e) deg cap (afterReads as n s) := rfl

/-- The codes of R250 are 1 to 7. -/
theorem errorByte_range (e : ErrorCode) : 1 ≤ (errorByte e).toNat ∧ (errorByte e).toNat ≤ 7 := by cases e <;> decide

theorem errorByte_ne_zero (e : ErrorCode) : errorByte e ≠ 0#8 := by cases e <;> decide

/-- Settles O25: a completion changes what it writes, over a state that only its reads have changed. -/
theorem completionFrame : Obligations.CompletionFrame := by
  intro i s t h
  obtain ⟨_, ⟨as, n, xs, rfl⟩, ⟨r, deg, cap, _, rfl⟩ | ⟨e, deg, cap, _, rfl⟩⟩ := exec_cases i s t h
  · exact ⟨as, n, .inl ⟨r, deg, cap, completeSuccess_eq_afterSuccess _ r deg cap as n xs s⟩⟩
  · obtain ⟨hlow, hhigh⟩ := errorByte_range e
    exact ⟨as, n, .inr ⟨errorByte e, deg, cap, hlow, hhigh, completeError_eq_afterError e deg cap as n xs s⟩⟩

/-! ### The flags and EXHAUSTED -/

/-- The run ends as every run outside the BSGS procedure does: it reports neither flag and not EXHAUSTED (R14, R52). -/
def EndsPlainly (x : Run) : Prop :=
  (∃ r, x.ending = .success r false false) ∨ (∃ e, e ≠ .exhausted ∧ x.ending = .error e false false)

theorem EndsPlainly.success_inv {x : Run} {r : Nat} {deg cap : Bool} (h : EndsPlainly x)
    (hx : x.ending = .success r deg cap) : deg = false ∧ cap = false := by
  obtain ⟨_, hr⟩ | ⟨_, _, he⟩ := h
  · cases hr.symm.trans hx; exact ⟨rfl, rfl⟩
  · cases he.symm.trans hx

theorem EndsPlainly.error_inv {x : Run} {e : ErrorCode} {deg cap : Bool} (h : EndsPlainly x)
    (hx : x.ending = .error e deg cap) : e ≠ .exhausted ∧ deg = false ∧ cap = false := by
  obtain ⟨_, hr⟩ | ⟨_, hne, he⟩ := h
  · cases hr.symm.trans hx
  · cases he.symm.trans hx; exact ⟨hne, rfl, rfl⟩

theorem returnValue_endsPlainly (r : Nat) (x : Work) : EndsPlainly (returnValue r x) := .inl ⟨r, rfl⟩

theorem raiseError_endsPlainly {e : ErrorCode} (h : e ≠ .exhausted) : EndsPlainly (raiseError e) := .inr ⟨e, h, rfl⟩

/-- The run `x`, where the checks of the command's family let it begin (R260). -/
def checkedRun (c : Option ErrorCode) (x : Run) : Run :=
  match c with
  | some e => raiseError e
  | none => x

theorem checkedRun_endsPlainly {c : Option ErrorCode} {x : Run} (hc : c ≠ some .exhausted) (hx : EndsPlainly x) :
    EndsPlainly (checkedRun c x) := by
  cases c with
  | some e => exact raiseError_endsPlainly fun he => hc (congrArg some he)
  | none => exact hx

theorem mulCheck_ne_exhausted (p a b : Int) : mulCheck p a b ≠ some .exhausted := by
  unfold mulCheck; split_ifs <;> simp

theorem powCheck_ne_exhausted (p k : Int) : powCheck p k ≠ some .exhausted := by
  unfold powCheck; split_ifs <;> simp

theorem powBackCheck_ne_exhausted (p k : Int) : powBackCheck p k ≠ some .exhausted := by
  unfold powBackCheck; split_ifs <;> simp

theorem powBaseCheck_ne_exhausted (p k b : Int) : powBaseCheck p k b ≠ some .exhausted := by
  unfold powBaseCheck; split_ifs <;> simp

theorem dlogCheck_ne_exhausted (p : Int) : dlogCheck p ≠ some .exhausted := by
  unfold dlogCheck; split_ifs <;> simp

theorem lookupCheck_ne_exhausted (l : Latches) (n : Int) : lookupCheck l n ≠ some .exhausted := by
  unfold lookupCheck; split_ifs <;> simp

theorem scanCheck_ne_exhausted (l : Latches) (n lim : Int) : scanCheck l n lim ≠ some .exhausted := by
  unfold scanCheck; split_ifs <;> simp

theorem returnFromBitset_endsPlainly (w : Width) (r : Nat) (x : Work) (s : State) :
    EndsPlainly (returnFromBitset w r x s).1 := by
  obtain ⟨_, h⟩ | ⟨_, h⟩ := returnFromBitset_cases w r x s <;> rw [h] <;> exact returnValue_endsPlainly _ x

theorem memFault_endsPlainly : EndsPlainly (raiseError .memFault) := raiseError_endsPlainly (by decide)

theorem runIsprimeC_endsPlainly (w : Width) (s : State) : EndsPlainly (runIsprimeC w s).1 := by
  unfold runIsprimeC
  split
  · rename_i e he
    exact raiseError_endsPlainly fun h => lookupCheck_ne_exhausted _ _ (he.trans (congrArg some h))
  · split
    · exact returnFromBitset_endsPlainly _ _ _ _
    · exact memFault_endsPlainly

theorem runNextprimeC_endsPlainly (w : Width) (s : State) : EndsPlainly (runNextprimeC w s).1 := by
  unfold runNextprimeC
  split
  · rename_i e he
    exact raiseError_endsPlainly fun h => scanCheck_ne_exhausted _ _ _ (he.trans (congrArg some h))
  · split
    · exact returnFromBitset_endsPlainly _ _ _ _
    · exact returnFromBitset_endsPlainly _ _ _ _
    · exact memFault_endsPlainly

/-- The commands that run the BSGS procedure (R196, R197). -/
def bsgsCommands : List Instr := [.dlogBg64, .dlogBg128, .dlogBgLim64, .dlogBgLim128]

/-- Every other command ends plainly. -/
theorem runOf_endsPlainly {i : Instr} (h : i ∉ bsgsCommands) (s : State) : EndsPlainly (runOf i s).1 := by
  cases i with
  | mulmod64 | mulmod128 | addmod64 | addmod128 =>
    exact checkedRun_endsPlainly (mulCheck_ne_exhausted _ _ _) (returnValue_endsPlainly _ _)
  | pow2f64 | pow2f128 | pow2l64 | pow2l128 =>
    exact checkedRun_endsPlainly (powCheck_ne_exhausted _ _) (returnValue_endsPlainly _ _)
  | pow2b64 | pow2b128 =>
    exact checkedRun_endsPlainly (powBackCheck_ne_exhausted _ _) (returnValue_endsPlainly _ _)
  | powl64 | powl128 =>
    exact checkedRun_endsPlainly (powBaseCheck_ne_exhausted _ _ _) (returnValue_endsPlainly _ _)
  | dlogMn64 | dlogMn128 | dlogPl64 | dlogPl128 | dlogMnLim64 | dlogMnLim128 | dlogPlLim64 | dlogPlLim128 =>
    exact checkedRun_endsPlainly (dlogCheck_ne_exhausted _) (returnValue_endsPlainly _ _)
  | dlogBg64 | dlogBg128 | dlogBgLim64 | dlogBgLim128 => exact absurd (by decide) h
  | isprime64 | isprime128 | isprimeW6n64 | isprimeW6n128 | isprimeW30n64 | isprimeW30n128 =>
    exact returnValue_endsPlainly _ _
  | isprimeC64 | isprimeC128 => exact runIsprimeC_endsPlainly _ s
  | nextprimeC64 | nextprimeC128 => exact runNextprimeC_endsPlainly _ s

/-- Settles O26: a run that ends plainly reports no flag. -/
theorem onlyBsgsReportsFlags : Obligations.OnlyBsgsReportsFlags := by
  intro i s t h hflag
  by_contra hi
  have hplain := runOf_endsPlainly hi s
  obtain ⟨_, _, ⟨r, deg, cap, hend, rfl⟩ | ⟨e, deg, cap, hend, rfl⟩⟩ := exec_cases i s t h
  · obtain ⟨rfl, rfl⟩ := hplain.success_inv hend
    simp at hflag
  · obtain ⟨_, rfl, rfl⟩ := hplain.error_inv hend
    simp at hflag

end Sys2Proof.Machine
end

section
/-! THEOREMS. The invariant of the machine is kept by every event (Sys2Proof/Safety.lean). -/

namespace Sys2Proof.Machine

open Sys2Proof.Safety

/-! ### The words of the BSGS commands -/

theorem wordOf_fieldsOf (c : Word) : wordOf (fieldsOf c) = c := by
  have hupper : c.extractLsb' 9 55 ++ c.extractLsb' 8 1 = c.extractLsb' 8 56 :=
    BitVec.extractLsb'_append_extractLsb'_eq_extractLsb' rfl
  have hall : c.extractLsb' 8 56 ++ c.extractLsb' 0 8 = c.extractLsb' 0 64 :=
    BitVec.extractLsb'_append_extractLsb'_eq_extractLsb' rfl
  rw [wordOf, fieldsOf, hupper, hall, BitVec.extractLsb'_eq_self]

theorem wordOf_row : ∀ r ∈ opMap, ∀ w : BitVec 1, wordOf ⟨0#55, w, r.op⟩ = encode (r.select w) := by decide

/-- A word that decodes to a command is that command's word (R111, R113). -/
theorem eq_encode_of_decode {c : Word} {i : Instr} (h : decode c = .ok i) : c = encode i := by
  unfold decode at h
  dsimp only at h
  split at h
  · rename_i hrsv
    split at h
    · rename_i r hr
      cases h
      have hop : r.op = (fieldsOf c).op := by simpa using List.find?_some hr
      rw [← wordOf_row r (List.mem_of_find?_eq_some hr), hop, ← hrsv]
      exact (wordOf_fieldsOf c).symm
    · cases h
  · cases h

theorem encode_mem_bsgsWords : ∀ i ∈ bsgsCommands, encode i ∈ bsgsWords := by decide

/-- A command that reports a flag is one of the BSGS words (R52). -/
theorem cmd_mem_bsgsWords {i : Instr} {s : State} (hi : decode s.latch.cmd = .ok i)
    (h : (completeRun s).status.degraded = true ∨ (completeRun s).status.capped = true) : s.latch.cmd ∈ bsgsWords := by
  rw [eq_encode_of_decode hi]
  exact encode_mem_bsgsWords i (onlyBsgsReportsFlags i s _ (exec_eq_completeRun hi) h)

/-! ### Updates the invariant does not see -/

theorem inv_inputs {s : State} (rest : List Event) (h : Inv s) : Inv { s with inputs := rest } := { h with }

theorem inv_respond {s : State} (r : Response) (h : Inv s) : Inv (respond r s) := { h with }

/-- Reads of a running command (R81). -/
theorem inv_readsOnly {s t : State} (h : Inv s) (hbusy : s.status.busy = true) (hr : ReadsOnly s t) : Inv t := by
  obtain ⟨_, _, _, rfl⟩ := hr
  exact { h with idle := fun hidle => absurd (hbusy.symm.trans hidle) (by decide) }

/-! ### Register writes -/

theorem legalBudget_range (v : Word) : 32 ≤ (legalBudget v).toNat ∧ (legalBudget v).toNat ≤ 1048576 := by
  rw [legalBudget_toNat]; omega

/-- The issue of a command: everything that the invariant says of a running command is set by it (R48). -/
theorem inv_latchCommand {s : State} (c : Word) (h : Inv s) : Inv (latchCommand c s) where
  memory := h.memory
  budget := h.budget
  latched := fun _ => h.budget
  code := by simp
  errBit := by simp
  running := by simp
  idle := by simp
  noWork := h.noWork
  bsgsOnly := by simp

theorem inv_issue {s : State} (c : Word) (h : Inv s) : Inv (issue c s) := by
  cases hb : s.status.busy with
  | true => rw [issue_of_busy c hb]; exact { h with }
  | false => rw [issue_of_idle c hb]; exact inv_latchCommand c h

theorem inv_writeReg {s : State} (r : Reg) (v : Word) (h : Inv s) : Inv (writeReg r v s) := by
  cases r with
  | cmd => exact inv_issue v h
  | status => exact { h with running := fun hb => by simp [writeReg, h.running hb] }
  | tblBudget => exact { h with budget := legalBudget_range v }
  | _ => exact { h with }

theorem inv_hostWrite {s : State} (n : Nat) (o : Offset) (v : Word) (h : Inv s) : Inv (hostWrite n o v s) := by
  unfold hostWrite windowWrite
  split
  · split
    · exact inv_respond _ (inv_writeReg _ v h)
    · exact inv_respond _ h
  · exact inv_respond _ h

/-! ### Memory, reset and completion -/

theorem inv_memStore {s : State} (a : Addr) (b : Byte) (h : Inv s) : Inv (memStore a b s) :=
  { h with
    memory := memWf_memStore a b s h.memory
    idle := fun hidle => by
      have hidle' : s.status.busy = false := hidle
      simp [hidle', h.idle hidle'] }

theorem inv_reset : Inv State.reset where
  memory := memWf_reset
  budget := by decide
  latched := by decide
  code := by decide
  errBit := by decide
  running := by decide
  idle := fun _ => ⟨rfl, rfl⟩
  noWork := ⟨rfl, rfl⟩
  bsgsOnly := by decide

theorem inv_resetBlock {s : State} (h : Inv s) : Inv (resetBlock s) := { inv_reset with memory := h.memory }

/-- A running command has ERR and ERRCODE clear, and a success leaves them so (R48, R49). -/
theorem inv_completeSuccess {s : State} (w : Width) (r : Nat) {deg cap : Bool} (h : Inv s)
    (hflag : deg = true ∨ cap = true → s.latch.cmd ∈ bsgsWords) : Inv (completeSuccess w r deg cap s) :=
  { h with
    latched := by simp
    running := by simp
    idle := fun _ => ⟨rfl, rfl⟩
    noWork := ⟨rfl, rfl⟩
    bsgsOnly := hflag }

theorem inv_completeError {s : State} (e : ErrorCode) {deg cap : Bool} (h : Inv s)
    (hflag : deg = true ∨ cap = true → s.latch.cmd ∈ bsgsWords) : Inv (completeError e deg cap s) :=
  { h with
    latched := by simp
    code := (errorByte_range e).2
    errBit := ⟨fun _ => errorByte_ne_zero e, fun _ => rfl⟩
    running := by simp
    idle := fun _ => ⟨rfl, rfl⟩
    noWork := ⟨rfl, rfl⟩
    bsgsOnly := hflag }

theorem inv_completeRun {s : State} (h : Inv s) (hbusy : s.status.busy = true) : Inv (completeRun s) := by
  cases hi : decode s.latch.cmd with
  | ok i =>
    have hflag := cmd_mem_bsgsWords hi
    obtain ⟨u, hu, ⟨r, deg, cap, _, heq⟩ | ⟨e, deg, cap, _, heq⟩⟩ := exec_cases i s _ (exec_eq_completeRun hi) <;>
      rw [heq] at hflag ⊢ <;> rw [← hu.latch] at hflag
    · exact inv_completeSuccess _ r (inv_readsOnly h hbusy hu) hflag
    · exact inv_completeError e (inv_readsOnly h hbusy hu) hflag
  | error _ =>
    rw [completeRun, hi]
    exact inv_completeError .illegalCommand h (by simp)

/-! ### Every step -/

theorem inv_afterEvent {s : State} (e : Event) (h : Inv s) : Inv (afterEvent e s) := by
  cases e with
  | hostRead n o => dsimp only [afterEvent, hostRead]; split <;> exact inv_respond _ h
  | hostWrite n o v => exact inv_hostWrite n o v h
  | memStore a b => exact inv_memStore a b h
  | blockRead =>
    dsimp only [afterEvent]
    split
    · exact inv_readsOnly h ‹_› (readAhead_readsOnly s)
    · exact h
  | completion =>
    dsimp only [afterEvent]
    split
    · exact inv_completeRun h ‹_›
    · exact h
  | reset => exact inv_resetBlock h

/-- Settles O52: a step is one event, and every event keeps the invariant. -/
theorem stepKeepsTheInvariant : Obligations.StepKeepsTheInvariant := by
  intro s t h hstep
  obtain ⟨_, rfl⟩ | ⟨e, rest, _, rfl⟩ := step_cases hstep
  · exact inv_afterEvent .completion h
  · exact inv_afterEvent e (inv_inputs rest h)

end Sys2Proof.Machine
end

section
/-! THEOREMS. Baby-step-giant-step: its table fits the budget, and its giant steps always hit (42_dlog.md R191 to
R198). -/

namespace Sys2Proof.Machine

/-! ### The step size -/

theorem wantedStep_pos {p : Nat} (h0 : 0 < p) (h : p < 2 ^ 127) : 1 ≤ wantedStep p := by
  have hroot : p ≤ csqrt p * csqrt p := (csqrt_isLeast p (h.trans (by decide))).1
  have hroot_pos : 0 < csqrt p := Nat.pos_of_ne_zero fun hz => by rw [hz] at hroot; omega
  have hthird : csqrt p ≤ wantedStep p * 3 := le_ceildiv_mul _ 3 (by decide)
  omega

theorem allowedStep_pos (w : Width) {budget : Nat} (h : 32 ≤ budget) : 1 ≤ allowedStep w budget := by
  cases w <;> simp only [allowedStep, entryBytes] <;> omega

theorem stepSize_pos (w : Width) {p budget : Nat} (h0 : 0 < p) (h : p < 2 ^ 127) (hb : 32 ≤ budget) :
    1 ≤ stepSize w p budget :=
  le_min (wantedStep_pos h0 h) (allowedStep_pos w hb)

theorem stepSize_mul_entryBytes_le (w : Width) (p budget : Nat) : stepSize w p budget * entryBytes w ≤ budget :=
  (Nat.mul_le_mul_right _ (min_le_right _ _)).trans (Nat.div_mul_le_self budget _)

/-- Settles O47: the step size is the smaller of the two, and a baby step writes one entry. -/
theorem bsgsTableFitsTheBudget : Obligations.BsgsTableFitsTheBudget := by
  intro w p budget h0 hp hb
  have hentry : (if w = .w64 then 16 else 32) = entryBytes w := by cases w <;> rfl
  refine ⟨stepSize_pos w h0 hp hb, ?_, babySteps_length p _ 0 (1 % p) []⟩
  rw [hentry]
  exact stepSize_mul_entryBytes_le w p budget

/-! ### The multiplier on the values of the giant steps -/

/-- The 64-bit path is exact for residues, whichever product runs (R143). -/
theorem mulmodPath64_eq {p a b : Nat} (hp : p < 2 ^ 63) (ha : a < p) (hb : b < p) : mulmodPath64 p a b = a * b % p := by
  unfold mulmodPath64
  split
  · rename_i hsmall
    have hprod : a * b ≤ 2 ^ 63 - 1 := by
      rcases Nat.eq_zero_or_pos b with rfl | hpos
      · simp
      · exact (Nat.le_div_iff_mul_le hpos).1 (hsmall.resolve_left hpos.ne')
    rw [Nat.mod_eq_of_lt (a := a * b) (by omega)]
  · have hprod : a * b < 2 ^ 63 * 2 ^ 63 := Nat.mul_lt_mul'' (ha.trans hp) (hb.trans hp)
    rw [Nat.mod_eq_of_lt (a := a * b) (by omega)]

/-- The 128-bit path is exact where its native product does not overflow (R145). -/
theorem mulmodPath128_eq_of_native {p a b : Nat} (h : a * b ≤ 2 ^ 127 - 1) : mulmodPath128 p a b = a * b % p := by
  rw [mulmodPath128, if_pos h, Nat.mod_eq_of_lt (a := a * b) (by omega)]

/-- Where the procedure takes giant steps, their products by am are exact (R194, R195). -/
theorem mulmodP_giant {w : Width} {p am y : Nat} (hp : p < 2 ^ (bitsOf w - 1)) (ham : am < p) (hy : y < p)
    (hdeg : ¬ (overflows w p am = true ∧ w = .w128)) : mulmodP w p y am = y * am % p := by
  cases w with
  | w64 => exact mulmodPath64_eq hp hy ham
  | w128 =>
    have hfits : am * (p - 1) ≤ 2 ^ 127 - 1 := by
      by_contra hover
      exact hdeg ⟨decide_eq_true (not_le.1 hover), rfl⟩
    refine mulmodPath128_eq_of_native (le_trans ?_ hfits)
    rw [Nat.mul_comm y]
    exact Nat.mul_le_mul_left am (by omega)

/-- The giant value after `k` steps from 1 is am^k (R195). -/
theorem giantValue_eq {w : Width} {p am : Nat} (hp : 0 < p) (hmul : ∀ y < p, mulmodP w p y am = y * am % p) (k : Nat) :
    giantValue w p am (1 % p) k = am ^ k % p := by
  induction k with
  | zero => rfl
  | succ k ih =>
    have hstep : giantValue w p am (1 % p) (k + 1) = mulmodP w p (giantValue w p am (1 % p) k) am :=
      repeatStep_succ _ k _
    rw [hstep, ih, hmul _ (Nat.mod_lt _ hp), Nat.mod_mul_mod, pow_succ]

/-! ### A giant step meets a baby step -/

/-- The baby value after `k` doublings of 1 is 2^k (R192). -/
theorem babyValue_eq {p : Nat} (hp : 0 < p) (k : Nat) : repeatStep (dbl p) k (1 % p) = 2 ^ k % p := by
  rw [repeatStep_dbl p k _ (Nat.mod_lt _ hp), Nat.mul_mod_mod, Nat.mul_one]

theorem powBackward_lt {p : Nat} (hp : 0 < p) (m : Nat) : powBackward p m < p :=
  repeatStep_lt _ p m _ (hlv_lt p) (Nat.mod_lt _ hp)

/-- am is the inverse of 2^m (R193). -/
theorem powBackward_mul {p : Nat} (hodd : p % 2 = 1) (m : Nat) : powBackward p m * 2 ^ m ≡ 1 [MOD p] := by
  rw [Nat.mul_comm]
  exact repeatStep_hlv p m (1 % p) hodd (Nat.mod_lt _ (by omega))

/-- If no power of 2 up to 2^m is 1, then some power of am = 2^(−m), up to the number of giant steps, is a power of 2
below 2^m: the one and the other make up 2^φ(p) = 1 (R198). -/
theorem exists_giant_eq_baby {p m am : Nat} (hodd : p % 2 = 1) (hm : 1 ≤ m) (ham : am * 2 ^ m ≡ 1 [MOD p])
    (hmiss : ∀ k < m, 2 ^ (k + 1) % p ≠ 1 % p) :
    ∃ i j, 1 ≤ i ∧ i ≤ ceildiv p m ∧ j < m ∧ am ^ i % p = 2 ^ j % p := by
  have hcop : Nat.Coprime 2 p := (Nat.coprime_two_left).2 (Nat.odd_iff.2 hodd)
  have horder : 2 ^ p.totient ≡ 1 [MOD p] := Nat.ModEq.pow_totient hcop
  have hpos : 0 < p.totient := Nat.totient_pos.2 (by omega)
  have hlong : m < p.totient := by
    by_contra hshort
    refine hmiss (p.totient - 1) (by omega) ?_
    rwa [Nat.sub_add_cancel hpos]
  refine ⟨p.totient / m, p.totient % m, Nat.div_pos hlong.le hm, ?_, Nat.mod_lt _ hm, ?_⟩
  · exact Nat.div_le_of_le_mul ((Nat.totient_le p).trans ((le_ceildiv_mul p m hm).trans_eq (Nat.mul_comm _ _)))
  · have hcancel : Nat.gcd p (2 ^ (m * (p.totient / m))) = 1 := (Nat.Coprime.pow_left _ hcop).symm
    refine Nat.ModEq.cancel_right_of_coprime hcancel ?_
    calc am ^ (p.totient / m) * 2 ^ (m * (p.totient / m))
        = (am * 2 ^ m) ^ (p.totient / m) := by rw [mul_pow, pow_mul]
      _ ≡ 1 ^ (p.totient / m) [MOD p] := ham.pow _
      _ = 1 := one_pow _
      _ ≡ 2 ^ p.totient [MOD p] := horder.symm
      _ = 2 ^ (p.totient % m) * 2 ^ (m * (p.totient / m)) := by rw [← pow_add, Nat.mod_add_div]

/-- The giant steps of the unbounded form always hit (R198, R259). -/
theorem giantSteps_ne_exhausted {w : Width} {p m am : Nat} {t : List TableEntry} (hodd : p % 2 = 1) (hm : 1 ≤ m)
    (hmul : ∀ y < p, mulmodP w p y am = y * am % p) (ham : am * 2 ^ m ≡ 1 [MOD p])
    (hmiss : ∀ k < m, 2 ^ (k + 1) % p ≠ 1 % p) (htable : ∀ j < m, ⟨2 ^ j % p, j⟩ ∈ t) :
    giantSteps w p am m none t (ceildiv p m) 1 (1 % p) ≠ .exhausted := by
  rcases giantSteps_cases w p am m none t (ceildiv p m) 1 (1 % p) with
    ⟨_, _, _, _, _, _, h⟩ | ⟨_, _, _, _, h⟩ | ⟨hnone, _⟩
  · simp [h]
  · simp [h]
  · obtain ⟨i, j, hi, hle, hj, heq⟩ := exists_giant_eq_baby hodd hm ham hmiss
    have hmissed := (hnone (i - 1) (by omega)).2
    rw [Nat.sub_add_cancel hi, giantValue_eq (by omega) hmul, heq] at hmissed
    exact absurd rfl (tableIndex_none t _ hmissed _ (htable j hj))

/-! ### EXHAUSTED is unreachable -/

/-- The run does not end in EXHAUSTED (R259). -/
def NotExhausted (x : Run) : Prop := ∀ deg cap, x.ending ≠ .error .exhausted deg cap

theorem EndsPlainly.notExhausted {x : Run} (h : EndsPlainly x) : NotExhausted x := by
  intro deg cap hx
  obtain ⟨hne, _⟩ := h.error_inv hx
  exact hne rfl

theorem notExhausted_of_success {x : Run} {r : Nat} {deg cap : Bool} (h : x.ending = .success r deg cap) :
    NotExhausted x := by
  intro deg' cap' hx
  rw [h] at hx
  cases hx

theorem giantPhase_notExhausted {w : Width} {p m : Nat} (cap : Bool) (bound : Option Int) {t : List TableEntry}
    (hodd : p % 2 = 1) (hp : p < 2 ^ (bitsOf w - 1)) (hm : 1 ≤ m) (hmiss : ∀ k < m, 2 ^ (k + 1) % p ≠ 1 % p)
    (htable : ∀ j < m, ⟨2 ^ j % p, j⟩ ∈ t) : NotExhausted (giantPhase w p m cap bound t) := by
  unfold giantPhase
  dsimp only
  split
  · exact notExhausted_of_success rfl
  · rename_i hdeg
    have ham : powBackward p m < p := powBackward_lt (by omega) m
    split
    · exact notExhausted_of_success rfl
    · exact notExhausted_of_success rfl
    · rename_i hex
      cases bound with
      | some lim => exact notExhausted_of_success rfl
      | none => exact absurd hex (giantSteps_ne_exhausted hodd hm (fun y hy => mulmodP_giant hp ham hy hdeg)
          (powBackward_mul hodd m) hmiss htable)

theorem bsgs_notExhausted {w : Width} {p budget : Nat} (bound : Option Int) (hodd : p % 2 = 1)
    (hp : p < 2 ^ (bitsOf w - 1)) (hb : 32 ≤ budget) : NotExhausted (bsgs w p budget bound) := by
  have h0 : 0 < p := by omega
  have hp127 : p < 2 ^ 127 := hp.trans_le (Nat.pow_le_pow_right (by decide) (by cases w <;> decide))
  have hm := stepSize_pos w h0 hp127 hb
  unfold bsgs
  dsimp only
  split
  · exact notExhausted_of_success rfl
  · rename_i t hbaby
    rcases babySteps_cases p (stepSize w p budget) 0 (1 % p) [] with ⟨_, _, _, _, hsome⟩ | ⟨hmiss, _, hmem⟩
    · rw [hbaby] at hsome; cases hsome
    · rw [hbaby] at hmem
      refine giantPhase_notExhausted _ bound hodd hp hm (fun k hk => ?_) (fun j hj => ?_)
      · rw [← babyValue_eq h0]; exact hmiss k hk
      · exact (hmem _).2 (.inr ⟨j, hj, by rw [babyValue_eq h0, Nat.zero_add]⟩)

/-- An operand is below the sign bit of its width (R119). -/
theorem opnd_lt (w : Width) (x : Wide) : opnd w x < 2 ^ (bitsOf w - 1) := by
  cases w with
  | w64 => exact BitVec.toInt_lt
  | w128 => exact BitVec.toInt_lt

/-- The checks of a DLOG command leave the odd positive moduli (R180). -/
theorem odd_of_dlogCheck {p : Int} (h : dlogCheck p = none) : 0 < p ∧ p % 2 = 1 := by
  unfold dlogCheck at h
  split_ifs at h
  omega

/-- A run of BSGS behind the checks of its command (R180, R196, R197). -/
theorem checked_bsgs_notExhausted (w : Width) (l : Latches) (bound : Option Int) (hb : 32 ≤ l.budget.toNat) :
    NotExhausted (checkedRun (dlogCheck (opnd w l.p)) (bsgs w (opnd w l.p).toNat l.budget.toNat bound)) := by
  cases hc : dlogCheck (opnd w l.p) with
  | some e =>
    have hne : e ≠ .exhausted := fun he => dlogCheck_ne_exhausted _ (hc.trans (congrArg some he))
    exact (raiseError_endsPlainly hne).notExhausted
  | none =>
    obtain ⟨hpos, hodd⟩ := odd_of_dlogCheck hc
    have hlt := opnd_lt w l.p
    refine bsgs_notExhausted bound (by omega) ?_ hb
    zify
    rwa [Int.toNat_of_nonneg hpos.le]

theorem runOf_notExhausted (i : Instr) {s : State} (hb : 32 ≤ s.latch.budget.toNat) : NotExhausted (runOf i s).1 := by
  by_cases hi : i ∈ bsgsCommands
  · simp only [bsgsCommands, List.mem_cons, List.not_mem_nil, or_false] at hi
    obtain rfl | rfl | rfl | rfl := hi
    exacts [checked_bsgs_notExhausted .w64 s.latch none hb, checked_bsgs_notExhausted .w128 s.latch none hb,
      checked_bsgs_notExhausted .w64 s.latch (some _) hb, checked_bsgs_notExhausted .w128 s.latch (some _) hb]
  · exact (runOf_endsPlainly hi s).notExhausted

theorem errorByte_ne_seven {e : ErrorCode} (h : e ≠ .exhausted) : errorByte e ≠ 7#8 := by
  cases e with
  | exhausted => exact absurd rfl h
  | _ => decide

/-- Settles O29: a success leaves ERRCODE as it was, and an error has another code. -/
theorem exhaustedIsUnreachable : Obligations.ExhaustedIsUnreachable := by
  intro i s t hb hcode h
  have hne := runOf_notExhausted i hb
  obtain ⟨_, ⟨_, _, _, rfl⟩, ⟨r, deg, cap, _, rfl⟩ | ⟨e, deg, cap, hend, rfl⟩⟩ := exec_cases i s t h
  · exact hcode
  · exact errorByte_ne_seven fun he => hne deg cap (hend.trans (congrArg (Completion.error · deg cap) he))

end Sys2Proof.Machine
end

section
/-! THEOREMS. What a command's outcome depends on: its latches and the bytes of its bitset (10_state.md R60, R63;
20_memory.md R83 to R92). -/

namespace Sys2Proof.Machine

open Sys2Proof.Safety

/-! ### The bitset region and its unspecified bytes -/

theorem inRanges_iff {rs : List MemRange} {a : Nat} : inRanges rs a = true ↔ InSome rs a := by simp [inRanges]

/-- The byte of a bit below BSLEN lies in the region (R83, R85). -/
theorem bitAddress_inBitset {l : Latches} {i : Nat} (hr : regionOk l = true) (hi : i < l.bsLen.toNat) :
    InBitset l (bitAddress l i) := by
  have hend : l.bsBase.toNat + regionBytes l ≤ 2 ^ 64 := of_decide_eq_true hr
  unfold regionBytes at hend
  have haddr : bitAddress l i = l.bsBase.toNat + i / 8 := Nat.mod_eq_of_lt (by omega)
  rw [InBitset, haddr]
  omega

/-- What the command reads at an address is unspecified exactly where no byte is known (R88, R92). -/
theorem stableByte_eq_ite (s : State) (a : Nat) :
    stableByte s a = if inRanges s.volatile a = true ∨ a ∈ s.touched then none else some (byteAt s.mem a) := by
  simp [stableByte]

theorem freeByteAt_of_stableByte_none {s : State} {a : Nat} (h : stableByte s a = none) : FreeByteAt s a := by
  rw [stableByte_eq_ite] at h
  split at h
  · rename_i hfree
    exact hfree.imp_left inRanges_iff.1
  · cases h

/-- Some byte of the bitset is not idempotent: two ranges of addresses meet (R85, R88). -/
theorem bitsetVolatile_iff (s : State) :
    bitsetVolatile s = true ↔ ∃ a, InBitset s.latch a ∧ InSome s.volatile a := by
  simp only [bitsetVolatile, List.any_eq_true, InBitset, regionBytes]
  constructor
  · rintro ⟨r, hr, hmeet⟩
    have hlt := of_decide_eq_true hmeet
    exact ⟨max r.base s.latch.bsBase.toNat, by omega, r, hr, by omega⟩
  · rintro ⟨a, ha, r, hr, hin⟩
    exact ⟨r, hr, decide_eq_true (by omega)⟩

/-! ### Two states that agree on the bitset -/

/-- `s` and `u` agree on what a command may look at: the latches, the answers on hand, the bytes of the bitset and,
where one of those is unspecified, the count of free values (R60, R63, R88, R92). -/
structure AgreeOnBitset (s u : State) : Prop where
  latch     : u.latch = s.latch
  bytesRead : u.bytesRead = s.bytesRead
  bytes     : ∀ a, InBitset s.latch a → byteAt u.mem a = byteAt s.mem a
  readable  : ∀ a, InBitset s.latch a → (InSome u.readable a ↔ InSome s.readable a)
  volatile  : ∀ a, InBitset s.latch a → (InSome u.volatile a ↔ InSome s.volatile a)
  touched   : ∀ a, InBitset s.latch a → (a ∈ u.touched ↔ a ∈ s.touched)
  draws     : u.draws = s.draws ∨ ∀ a, InBitset s.latch a → ¬ FreeByteAt s a

/-- Two operations on states that agree answer the same and leave states that agree. -/
def SameAnswer {α : Type} (x y : α × State) : Prop := y.1 = x.1 ∧ AgreeOnBitset x.2 y.2

/-- Where a byte of the bitset is unspecified, both states draw the same next value. -/
theorem AgreeOnBitset.draws_eq {s u : State} (h : AgreeOnBitset s u) {a : Nat} (ha : InBitset s.latch a)
    (hfree : FreeByteAt s a) : u.draws = s.draws :=
  h.draws.resolve_right fun hnone => hnone a ha hfree

theorem AgreeOnBitset.logRead {s u : State} (h : AgreeOnBitset s u) (a : Nat) :
    AgreeOnBitset (logRead a s) (logRead a u) := { h with }

theorem AgreeOnBitset.draw {s u : State} (h : AgreeOnBitset s u) (hd : u.draws = s.draws) :
    AgreeOnBitset { s with draws := s.draws + 1 } { u with draws := u.draws + 1 } :=
  { h with draws := .inl (congrArg (· + 1) hd) }

theorem AgreeOnBitset.stableByte_eq {s u : State} (h : AgreeOnBitset s u) {a : Nat} (ha : InBitset s.latch a) :
    stableByte u a = stableByte s a := by
  simp only [stableByte_eq_ite, inRanges_iff, h.volatile a ha, h.touched a ha, h.bytes a ha]

theorem AgreeOnBitset.inRanges_eq {s u : State} (h : AgreeOnBitset s u) {a : Nat} (ha : InBitset s.latch a) :
    inRanges u.readable a = inRanges s.readable a := by
  rw [Bool.eq_iff_iff, inRanges_iff, inRanges_iff, h.readable a ha]

theorem memRead_sameAnswer {s u : State} (h : AgreeOnBitset s u) {a : Nat} (ha : InBitset s.latch a) :
    SameAnswer (memRead a s) (memRead a u) := by
  unfold memRead
  rw [h.inRanges_eq ha, h.stableByte_eq ha]
  split
  · split
    · exact ⟨rfl, h.logRead a⟩
    · rename_i hnone
      have hd := h.draws_eq ha (freeByteAt_of_stableByte_none hnone)
      exact ⟨by rw [hd], (h.logRead a).draw hd⟩
  · exact ⟨rfl, h.logRead a⟩

theorem nextByte_sameAnswer {s u : State} (h : AgreeOnBitset s u) {a : Nat} (ha : InBitset s.latch a) :
    SameAnswer (nextByte a s) (nextByte a u) := by
  cases hs : s.bytesRead with
  | nil =>
    rw [nextByte_nil a s hs, nextByte_nil a u (h.bytesRead.trans hs)]
    exact memRead_sameAnswer h ha
  | cons x xs =>
    rw [nextByte_cons a s x xs hs, nextByte_cons a u x xs (h.bytesRead.trans hs)]
    exact ⟨rfl, { h with bytesRead := rfl }⟩

theorem SameAnswer.cases {α : Type} {x y : α × State} (h : SameAnswer x y) :
    ∃ a s' u', x = (a, s') ∧ y = (a, u') ∧ AgreeOnBitset s' u' :=
  ⟨x.1, x.2, y.2, rfl, Prod.ext h.1 rfl, h.2⟩

theorem getBit_sameAnswer {s u : State} (h : AgreeOnBitset s u) {i : Nat} (hr : regionOk s.latch = true)
    (hi : i < s.latch.bsLen.toNat) : SameAnswer (getBit i s) (getBit i u) := by
  rw [getBit_eq, getBit_eq, h.latch]
  obtain ⟨hbyte, hagree⟩ := nextByte_sameAnswer h (bitAddress_inBitset hr hi)
  exact ⟨by rw [hbyte], hagree⟩

theorem scanBits_sameAnswer {s u : State} (n i : Nat) (h : AgreeOnBitset s u) (hr : regionOk s.latch = true)
    (hi : ∀ j, i ≤ j → j < i + n → j < s.latch.bsLen.toNat) : SameAnswer (scanBits n i s) (scanBits n i u) := by
  induction n generalizing i s u with
  | zero => exact ⟨rfl, h⟩
  | succ n ih =>
    obtain ⟨bit, s', u', hs, hu, hagree⟩ := (getBit_sameAnswer h hr (hi i le_rfl (by omega))).cases
    have hlatch : s'.latch = s.latch := by simpa [hs] using (getBit_readsOnly i s).latch
    unfold scanBits
    rw [hs, hu]
    cases bit with
    | none => exact ⟨rfl, hagree⟩
    | some b =>
      dsimp only
      split
      · exact ⟨rfl, hagree⟩
      · exact ih (i + 1) hagree (hlatch ▸ hr) (fun j hj hlt => hlatch ▸ hi j (by omega) (by omega))

theorem AgreeOnBitset.bitsetVolatile_eq {s u : State} (h : AgreeOnBitset s u) :
    bitsetVolatile u = bitsetVolatile s := by
  rw [Bool.eq_iff_iff, bitsetVolatile_iff, bitsetVolatile_iff, h.latch]
  exact exists_congr fun a => and_congr_right fun ha => h.volatile a ha

theorem returnFromBitset_sameAnswer {s u : State} (h : AgreeOnBitset s u) (w : Width) (r : Nat) (x : Work) :
    SameAnswer (returnFromBitset w r x s) (returnFromBitset w r x u) := by
  unfold returnFromBitset
  rw [h.bitsetVolatile_eq]
  split
  · rename_i hvol
    obtain ⟨a, ha, hfree⟩ := (bitsetVolatile_iff s).1 hvol
    have hd := h.draws_eq ha (.inl hfree)
    exact ⟨by rw [hd], h.draw hd⟩
  · exact ⟨rfl, h⟩

/-! ### The runs of the commands -/

theorem lookupCheck_none {l : Latches} {n : Int} (h : lookupCheck l n = none) :
    regionOk l = true ∧ 0 ≤ n ∧ n < l.bsLen.toNat := by
  unfold lookupCheck at h
  split_ifs at h with hr hn
  exact ⟨by simpa using hr, by omega, by omega⟩

theorem scanCheck_none {l : Latches} {n lim : Int} (h : scanCheck l n lim = none) :
    regionOk l = true ∧ 0 ≤ n ∧ lim ≤ l.bsLen.toNat := by
  unfold scanCheck at h
  split_ifs at h with hr hn
  exact ⟨by simpa using hr, by omega, by omega⟩

theorem runIsprimeC_sameAnswer {s u : State} (h : AgreeOnBitset s u) (w : Width) :
    SameAnswer (runIsprimeC w s) (runIsprimeC w u) := by
  unfold runIsprimeC
  rw [h.latch]
  split
  · exact ⟨rfl, h⟩
  · rename_i hc
    obtain ⟨hr, hn, hlen⟩ := lookupCheck_none hc
    obtain ⟨bit, s', u', hs, hu, hagree⟩ :=
      (getBit_sameAnswer h hr (show (opnd w s.latch.p).toNat < _ by omega)).cases
    rw [hs, hu]
    cases bit with
    | none => exact ⟨rfl, hagree⟩
    | some b => exact returnFromBitset_sameAnswer hagree w _ _

theorem runNextprimeC_sameAnswer {s u : State} (h : AgreeOnBitset s u) (w : Width) :
    SameAnswer (runNextprimeC w s) (runNextprimeC w u) := by
  unfold runNextprimeC
  rw [h.latch]
  split
  · exact ⟨rfl, h⟩
  · rename_i hc
    obtain ⟨hr, hn, hlim⟩ := scanCheck_none hc
    obtain ⟨fin, s', u', hs, hu, hagree⟩ := (scanBits_sameAnswer (opnd w s.latch.a - (opnd w s.latch.p + 1)).toNat
      ((opnd w s.latch.p).toNat + 1) h hr (by omega)).cases
    rw [hs, hu]
    cases fin with
    | found i => exact returnFromBitset_sameAnswer hagree w _ _
    | none => exact returnFromBitset_sameAnswer hagree w _ _
    | busError => exact ⟨rfl, hagree⟩

/-- Every command runs alike in states that agree on its bitset; all but the cached ones look at the latches only. -/
theorem runOf_sameAnswer {s u : State} (h : AgreeOnBitset s u) (i : Instr) : SameAnswer (runOf i s) (runOf i u) := by
  unfold runOf
  rw [h.latch]
  cases i with
  | isprimeC64 | isprimeC128 => exact runIsprimeC_sameAnswer h _
  | nextprimeC64 | nextprimeC128 => exact runNextprimeC_sameAnswer h _
  | _ => exact ⟨rfl, h⟩

/-! ### The outcome -/

theorem ReadsOnly.errcode {s t : State} (h : ReadsOnly s t) : t.errcode = s.errcode := by
  obtain ⟨_, _, _, rfl⟩ := h; rfl

/-- One run, completed over two states with equal STATUS and ERRCODE: the same report, and after a success the same
R. -/
theorem finish_sameReport (w : Width) (x : Run) {s u : State} (hstatus : u.status = s.status)
    (hcode : u.errcode = s.errcode) :
    (finish w x u).status = (finish w x s).status ∧ (finish w x u).errcode = (finish w x s).errcode ∧
    ((finish w x s).status.err = false →
      (finish w x u).rLo = (finish w x s).rLo ∧ (finish w x u).rHi = (finish w x s).rHi) := by
  rw [finish_eq, finish_eq]
  cases x.ending with
  | success r deg cap => simp [hstatus, hcode]
  | error e deg cap => simp [hstatus]

/-- Settles O30: the runs are equal, and a completion reports its run. -/
theorem resultsDependOnLatchesAndBitset : Obligations.ResultsDependOnLatchesAndBitset := by
  intro i s u s' u' hs hu hlatch hbytes hbitset hdraws hstatus hcode _
  have hagree : AgreeOnBitset s u :=
    { latch := hlatch
      bytesRead := hbytes
      bytes := fun a ha => by obtain ⟨hbyte, _, _, _⟩ := hbitset a ha; exact hbyte
      readable := fun a ha => by obtain ⟨_, hreadable, _, _⟩ := hbitset a ha; exact hreadable
      volatile := fun a ha => by obtain ⟨_, _, hvolatile, _⟩ := hbitset a ha; exact hvolatile
      touched := fun a ha => by obtain ⟨_, _, _, htouched⟩ := hbitset a ha; exact htouched
      draws := hdraws }
  rw [exec_eq] at hs hu
  cases hs
  cases hu
  rw [(runOf_sameAnswer hagree i).1]
  have hreads := runOf_readsOnly i s
  have hreads' := runOf_readsOnly i u
  exact finish_sameReport _ _ (hreads'.status.trans (hstatus.trans hreads.status.symm))
    (hreads'.errcode.trans (hcode.trans hreads.errcode.symm))

end Sys2Proof.Machine
end

section
/-! THEOREMS. A read of the running command made as an event of its own gives its completion the byte that it would have
read there (20_memory.md R90, R91). -/

namespace Sys2Proof.Machine

/-! ### One bit -/

/-- `s` with a read of address `a` made now, its answer on hand behind the others (R90). -/
def readNow (a : Nat) (s : State) : State :=
  { (memRead a s).2 with bytesRead := s.bytesRead ++ [(memRead a s).1] }

theorem readNow_latch (a : Nat) (s : State) : (readNow a s).latch = s.latch := (memRead_readsOnly a s).latch

theorem memRead_keeps_bytesRead (a : Nat) (s : State) : (memRead a s).2.bytesRead = s.bytesRead :=
  congrArg (fun x => x.2.bytesRead) (memRead_bytesRead a s.bytesRead s)

theorem set_bytesRead_eq {s : State} {xs : List (Option Byte)} (h : s.bytesRead = xs) :
    { s with bytesRead := xs } = s := by
  subst h
  rfl

/-- With no answer on hand, the early read is the one that the run makes. -/
theorem getBit_readNow_nil (i : Nat) {s : State} (h : s.bytesRead = []) :
    getBit i (readNow (bitAddress s.latch i) s) = getBit i s := by
  have hq : (readNow (bitAddress s.latch i) s).bytesRead = [(memRead (bitAddress s.latch i) s).1] := by
    simp [readNow, h]
  have hdone : { readNow (bitAddress s.latch i) s with bytesRead := [] } = (memRead (bitAddress s.latch i) s).2 :=
    set_bytesRead_eq ((memRead_keeps_bytesRead _ s).trans h)
  rw [getBit_eq, getBit_eq, nextByte_cons _ _ _ _ hq, nextByte_nil _ s h, hdone]

/-- A bit whose byte is on hand (R84). -/
theorem getBit_cons (i : Nat) {s : State} {x : Option Byte} {xs : List (Option Byte)} (h : s.bytesRead = x :: xs) :
    getBit i s = (x.map (bitOfByte · i), { s with bytesRead := xs }) := by
  rw [getBit_eq, nextByte_cons _ s x xs h]

/-- Behind an answer on hand, the early read does not touch the bit that the run looks at first. -/
theorem getBit_readNow_cons (i a : Nat) {s : State} {x : Option Byte} {xs : List (Option Byte)}
    (h : s.bytesRead = x :: xs) :
    getBit i (readNow a s) = (x.map (bitOfByte · i), readNow a { s with bytesRead := xs }) := by
  have hq : (readNow a s).bytesRead = x :: (xs ++ [(memRead a s).1]) := by simp [readNow, h]
  rw [getBit_cons i hq, readNow, readNow, memRead_bytesRead a xs s]

/-! ### A scan -/

theorem scanBits_succ_of_set {n i b : Nat} {s t : State} (h : getBit i s = (some b, t)) (hb : b ≠ 0) :
    scanBits (n + 1) i s = scanBits n (i + 1) t := by
  simp [scanBits, h, hb]

/-- The byte that a scan reads next may be read before it (R91). -/
theorem scanBits_readNow (n i : Nat) {s : State} {k : Nat} (h : pendingIndex n i s.bytesRead = some k) :
    scanBits n i (readNow (bitAddress s.latch k) s) = scanBits n i s := by
  induction n generalizing i s with
  | zero => cases h
  | succ n ih =>
    cases hq : s.bytesRead with
    | nil =>
      rw [hq] at h
      cases h
      rw [scanBits, scanBits, getBit_readNow_nil _ hq]
    | cons x xs =>
      rw [hq] at h
      cases x with
      | none => cases h
      | some b =>
        rw [pendingIndex] at h
        split at h
        · cases h
        · rename_i hset
          rw [scanBits_succ_of_set (getBit_readNow_cons i _ hq) hset, scanBits_succ_of_set (getBit_cons i hq) hset]
          exact ih (i + 1) (s := { s with bytesRead := xs }) h

/-! ### The runs -/

/-- A lookup of one bit has its read left exactly while no answer is on hand (R91, R225). -/
theorem pendingIndex_one {n k : Nat} {xs : List (Option Byte)} (h : pendingIndex 1 n xs = some k) :
    xs = [] ∧ k = n := by
  cases xs with
  | nil => cases h; exact ⟨rfl, rfl⟩
  | cons x xs =>
    cases x with
    | none => cases h
    | some b => simp [pendingIndex] at h

theorem runIsprimeC_readNow (w : Width) {s : State} {k : Nat} (hc : lookupCheck s.latch (opnd w s.latch.p) = none)
    (h : pendingIndex 1 (opnd w s.latch.p).toNat s.bytesRead = some k) :
    runIsprimeC w (readNow (bitAddress s.latch k) s) = runIsprimeC w s := by
  obtain ⟨hq, rfl⟩ := pendingIndex_one h
  rw [runIsprimeC, runIsprimeC, readNow_latch, hc]
  simp only [getBit_readNow_nil _ hq]

theorem runNextprimeC_readNow (w : Width) {s : State} {k : Nat}
    (hc : scanCheck s.latch (opnd w s.latch.p) (opnd w s.latch.a) = none)
    (h : pendingIndex (opnd w s.latch.a - (opnd w s.latch.p + 1)).toNat ((opnd w s.latch.p).toNat + 1) s.bytesRead =
      some k) :
    runNextprimeC w (readNow (bitAddress s.latch k) s) = runNextprimeC w s := by
  rw [runNextprimeC, runNextprimeC, readNow_latch, hc]
  simp only [scanBits_readNow _ _ h]

/-- A command with a read left runs alike whether it makes the read now or at its completion (R91). -/
theorem runOf_readNow (i : Instr) {s : State} {k : Nat}
    (h : pendingIndex (bitsToRead i s.latch).1 (bitsToRead i s.latch).2 s.bytesRead = some k) :
    runOf i (readNow (bitAddress s.latch k) s) = runOf i s := by
  cases i with
  | isprimeC64 | isprimeC128 =>
    dsimp only [bitsToRead] at h
    split at h
    · cases h
    · exact runIsprimeC_readNow _ ‹_› h
  | nextprimeC64 | nextprimeC128 =>
    dsimp only [bitsToRead] at h
    split at h
    · cases h
    · exact runNextprimeC_readNow _ ‹_› h
  | _ => cases h

/-- The read event of a running command, where no other agent stores before the completion: the next read made now, or
nothing where none is left. -/
theorem readAhead_eq_readNow {i : Instr} {s : State} (hi : decode s.latch.cmd = .ok i)
    (hstores : storesToCome s.inputs = []) :
    readAhead s = s ∨ ∃ k, pendingIndex (bitsToRead i s.latch).1 (bitsToRead i s.latch).2 s.bytesRead = some k ∧
      readAhead s = readNow (bitAddress s.latch k) s := by
  obtain h | ⟨i', a, hi', ha, h⟩ := readAhead_cases s
  · exact .inl h
  · have hsame : i' = i := Except.ok.inj (hi'.symm.trans hi)
    rw [pendingRead, Option.map_eq_some_iff, hsame] at ha
    obtain ⟨k, hk, rfl⟩ := ha
    exact .inr ⟨k, hk, h.trans (fetchByte_eq _ s hstores)⟩

/-- Settles O57: the read event leaves the state alone or makes the next read, and the run is the same after either. -/
theorem readingEarlyChangesNoResult : Obligations.ReadingEarlyChangesNoResult := by
  intro i s t rest hbusy hi hin hstores hstep
  rw [step_cons hin, afterEvent, if_pos hbusy] at hstep
  cases hstep
  obtain h | ⟨k, hk, h⟩ := readAhead_eq_readNow (s := { s with inputs := rest }) hi hstores
  · rw [h]
  · rw [h, exec_eq, exec_eq, runOf_readNow i hk]

end Sys2Proof.Machine
end

section
/-! THEOREMS. System memory and the platform's parameters across one step: only another agent's store changes a byte,
and nothing changes what is readable or idempotent (20_memory.md R81, R82, R88, R92). -/

namespace Sys2Proof.Machine

open Sys2Proof.Safety

/-! ### What a step leaves of the platform -/

/-- `t` has the system memory of `s` and the platform's parameters of `s` (R81, R82, R88). -/
structure SameMemory (s t : State) : Prop where
  mem      : t.mem = s.mem
  readable : t.readable = s.readable
  volatile : t.volatile = s.volatile

theorem SameMemory.refl (s : State) : SameMemory s s := ⟨rfl, rfl, rfl⟩

theorem ReadsOnly.sameMemory {s t : State} (h : ReadsOnly s t) : SameMemory s t := ⟨h.mem, h.readable, h.volatile⟩

theorem writeReg_sameMemory (r : Reg) (v : Word) (s : State) : SameMemory s (writeReg r v s) := by
  cases r with
  | cmd =>
    cases hb : s.status.busy with
    | true => rw [writeReg, issue_of_busy v hb]; exact { SameMemory.refl s with }
    | false => rw [writeReg, issue_of_idle v hb]; exact { SameMemory.refl s with }
  | _ => exact { SameMemory.refl s with }

theorem hostWrite_sameMemory (n : Nat) (o : Offset) (v : Word) (s : State) : SameMemory s (hostWrite n o v s) := by
  unfold hostWrite windowWrite
  split
  · split
    · exact { writeReg_sameMemory _ v s with }
    · exact { SameMemory.refl s with }
  · exact { SameMemory.refl s with }

/-- A completion reads memory and never writes it (R81). -/
theorem completeRun_sameMemory (s : State) : SameMemory s (completeRun s) := by
  obtain ⟨_, hu, ⟨_, _, _, _, h⟩ | ⟨_, _, _, h⟩⟩ := completeRun_cases s <;> rw [h] <;> exact { hu.sameMemory with }

/-- Every event but a store by another agent leaves system memory as it was. -/
theorem afterEvent_sameMemory {e : Event} (he : ∀ a b, e ≠ .memStore a b) (s : State) :
    SameMemory s (afterEvent e s) := by
  cases e with
  | hostRead n o => dsimp only [afterEvent, hostRead]; split <;> exact { SameMemory.refl s with }
  | hostWrite n o v => exact hostWrite_sameMemory n o v s
  | memStore a b => exact absurd rfl (he a b)
  | blockRead => dsimp only [afterEvent]; split; exacts [(readAhead_readsOnly s).sameMemory, .refl s]
  | completion => dsimp only [afterEvent]; split; exacts [completeRun_sameMemory s, .refl s]
  | reset => exact { SameMemory.refl s with }

/-- Settles O9: an event that is no store keeps memory, and so does the completion when no event is left. -/
theorem blockNeverWritesMemory : Obligations.BlockNeverWritesMemory := by
  intro s t hstep hno
  obtain ⟨_, rfl⟩ | ⟨e, rest, hin, rfl⟩ := step_cases hstep
  · exact (afterEvent_sameMemory (by simp) s).mem
  · exact (afterEvent_sameMemory (fun a b he => hno a b rest (he ▸ hin)) { s with inputs := rest }).mem

/-- No event changes the platform's parameters; a store changes a byte of memory only. -/
theorem afterEvent_platform (e : Event) (s : State) :
    (afterEvent e s).readable = s.readable ∧ (afterEvent e s).volatile = s.volatile := by
  by_cases he : ∃ a b, e = .memStore a b
  · obtain ⟨a, b, rfl⟩ := he
    exact ⟨rfl, rfl⟩
  · have h := afterEvent_sameMemory (fun a b hab => he ⟨a, b, hab⟩) s
    exact ⟨h.readable, h.volatile⟩

/-- Settles O55: a step is one event. -/
theorem platformParametersAreFixed : Obligations.PlatformParametersAreFixed := by
  intro s t hstep
  obtain ⟨_, rfl⟩ | ⟨e, rest, _, rfl⟩ := step_cases hstep
  · exact afterEvent_platform .completion s
  · exact afterEvent_platform e { s with inputs := rest }

/-! ### A store by another agent -/

/-- A store sets its byte in readable, idempotent memory and shows nowhere else (R88, R92, log 13). -/
theorem memStore_mem_cases (a : Addr) (b : Byte) (s : State) :
    (InSome s.readable a.toNat ∧ ¬ InSome s.volatile a.toNat ∧ (memStore a b s).mem = memInsert s.mem a.toNat b) ∨
    ((¬ InSome s.readable a.toNat ∨ InSome s.volatile a.toNat) ∧ (memStore a b s).mem = s.mem) := by
  rw [memStore_mem, ← inRanges_iff, ← inRanges_iff]
  split
  · rename_i hshown
    obtain ⟨hr, hv⟩ : inRanges s.readable a.toNat = true ∧ inRanges s.volatile a.toNat = false := by
      simpa using hshown
    exact .inl ⟨hr, by simp [hv], rfl⟩
  · rename_i hhidden
    rw [Bool.and_eq_true, Bool.not_eq_true', not_and_or, Bool.not_eq_false] at hhidden
    exact .inr ⟨hhidden, rfl⟩

theorem mem_touch {x a : Nat} {ts : List Nat} : x ∈ touch a ts ↔ x = a ∨ x ∈ ts := by
  unfold touch
  split
  · rename_i h
    have ha : a ∈ ts := List.contains_iff_mem.1 h
    exact ⟨.inr, fun hx => hx.elim (fun he => he ▸ ha) id⟩
  · exact List.mem_cons

/-- Settles O24: the next state is that of `memStore`, whose memory and record are told above. -/
theorem agentStoreIsSeen : Obligations.AgentStoreIsSeen := by
  intro s rest a b hin
  refine ⟨(memStore a b s).mem, (memStore a b s).touched, step_cons hin, ?_, ?_, ?_, memWf_memStore a b s, ?_, ?_⟩
  · intro x hx
    obtain ⟨_, _, h⟩ | ⟨_, h⟩ := memStore_mem_cases a b s <;> rw [h]
    exact memLookup_insert_other _ _ _ _ hx
  · intro hr hv
    obtain ⟨_, _, h⟩ | ⟨hhidden, _⟩ := memStore_mem_cases a b s
    · rw [h, memLookup_insert_self]
    · exact (hhidden.elim (· hr) hv).elim
  · intro hhidden
    obtain ⟨hr, hv, _⟩ | ⟨_, h⟩ := memStore_mem_cases a b s
    · exact (hhidden.elim (· hr) hv).elim
    · exact h
  · intro hbusy x
    rw [memStore_touched, if_pos hbusy, mem_touch]
  · intro hidle
    simp [hidle]

end Sys2Proof.Machine
end

section
/-! THEOREMS. The reads of the two cached commands: the byte that each bit's read gives, a scan as far as it goes, and
the reads that are events of their own (20_memory.md R82 to R92; 43_primality.md R225, R227). -/

namespace Sys2Proof.Machine

open Sys2Proof.Safety

/-! ### Addresses and checks -/

/-- The region check of R85 rounds BSLEN up to bytes. -/
theorem regionOk_of_regionFits {l : Latches} (h : RegionFits l) : regionOk l = true := by
  obtain ⟨q, hbits, hend⟩ := h
  rw [regionOk, regionBytes, decide_eq_true_eq]
  omega

/-- In a region that does not wrap, no address of a bit below BSLEN does (R83, R85). -/
theorem bitAddress_eq {l : Latches} {i : Nat} (hfit : RegionFits l) (hi : i < l.bsLen.toNat) :
    bitAddress l i = bitByteAddress l i := by
  obtain ⟨q, hbits, hend⟩ := hfit
  exact Nat.mod_eq_of_lt (by omega)

theorem lookupCheck_eq_none {l : Latches} {n : Nat} (hfit : RegionFits l) (hn : n < l.bsLen.toNat) :
    lookupCheck l n = none := by
  rw [lookupCheck, if_neg (by simp [regionOk_of_regionFits hfit]), if_neg (by omega)]

theorem scanCheck_eq_none {l : Latches} {n : Nat} {lim : Int} (hfit : RegionFits l) (hlim : lim ≤ l.bsLen.toNat) :
    scanCheck l n lim = none := by
  rw [scanCheck, if_neg (by simp [regionOk_of_regionFits hfit]), if_neg (by omega)]

/-! ### A read as an event of its own -/

/-- Answers on hand whose bits are all 1 do not end the scan: the bit after them is next (R227). -/
theorem pendingIndex_of_set_bits {bs : List Byte} {count first : Nat} (hlen : bs.length < count)
    (hset : ∀ x b, bs[x]? = some b → bitOfByte b (first + x) = 1) :
    pendingIndex count first (bs.map some) = some (first + bs.length) := by
  induction bs generalizing count first with
  | nil =>
    obtain ⟨k, rfl⟩ := Nat.exists_eq_succ_of_ne_zero (Nat.ne_of_gt hlen)
    rfl
  | cons b bs ih =>
    obtain ⟨k, rfl⟩ := Nat.exists_eq_succ_of_ne_zero (Nat.ne_of_gt (Nat.zero_lt_of_lt hlen))
    have hhead : bitOfByte b first = 1 := hset 0 b rfl
    have htail : ∀ x c, bs[x]? = some c → bitOfByte c (first + 1 + x) = 1 := fun x c hc => by
      rw [Nat.add_assoc, Nat.add_comm 1 x]
      exact hset (x + 1) c hc
    rw [List.map_cons, pendingIndex, hhead, if_neg one_ne_zero, ih (Nat.lt_of_succ_lt_succ hlen) htail,
      List.length_cons, Nat.add_assoc, Nat.add_comm 1]

/-- ISPRIME_C reads bit n alone (R225). -/
theorem bitsToRead_lookup {i : Instr} {w : Width} {l : Latches} {n : Nat}
    (hi : (i, w) ∈ [(Instr.isprimeC64, Width.w64), (.isprimeC128, .w128)]) (hfit : RegionFits l)
    (hp : opnd w l.p = n) (hn : n < l.bsLen.toNat) : bitsToRead i l = (1, n) := by
  have hcheck := lookupCheck_eq_none hfit hn
  simp only [List.mem_cons, Prod.mk.injEq, List.not_mem_nil, or_false] at hi
  obtain ⟨rfl, rfl⟩ | ⟨rfl, rfl⟩ := hi <;> simp [bitsToRead, widthOf, hp, hcheck]

/-- NEXTPRIME_C may read the bits from n + 1 up to the limit (R227). -/
theorem bitsToRead_scan {i : Instr} {w : Width} {l : Latches} {n : Nat} {lim : Int}
    (hi : (i, w) ∈ [(Instr.nextprimeC64, Width.w64), (.nextprimeC128, .w128)]) (hfit : RegionFits l)
    (hp : opnd w l.p = n) (ha : opnd w l.a = lim) (hlim : lim ≤ l.bsLen.toNat) :
    bitsToRead i l = ((lim - (n + 1)).toNat, n + 1) := by
  have hcheck := scanCheck_eq_none (n := n) hfit hlim
  simp only [List.mem_cons, Prod.mk.injEq, List.not_mem_nil, or_false] at hi
  obtain ⟨rfl, rfl⟩ | ⟨rfl, rfl⟩ := hi <;> simp [bitsToRead, widthOf, hp, ha, hcheck]

/-- With answers on hand that do not end its scan and bits left to read, a running command's read event reads the byte of
the next one (R90, R91). -/
theorem step_blockRead {i : Instr} {s : State} {rest : List Event} {count first : Nat} {bs : List Byte}
    (hbusy : s.status.busy = true) (hi : decode s.latch.cmd = .ok i) (hin : s.inputs = .blockRead :: rest)
    (hbits : bitsToRead i s.latch = (count, first)) (hq : s.bytesRead = bs.map some) (hlen : bs.length < count)
    (hset : ∀ x b, bs[x]? = some b → bitOfByte b (first + x) = 1) :
    step s = .next (fetchByte (bitAddress s.latch (first + bs.length)) { s with inputs := rest }) := by
  have hnext : pendingRead i { s with inputs := rest } = some (bitAddress s.latch (first + bs.length)) := by
    simp only [pendingRead, hbits, hq, pendingIndex_of_set_bits hlen hset, Option.map_some]
  rw [step_cons hin, afterEvent, if_pos hbusy, readAhead, fetchedWord, hi]
  simp only [hnext]

/-- Settles O56: the next bit's address is told by the answers on hand, and the byte by what a read of its own can do. -/
theorem blockReadTakesTheNextByte : Obligations.BlockReadTakesTheNextByte := by
  intro i w s rest n first last bs hcmd hbusy hi hin hfit hp hq hleft hset
  have hbits : bitsToRead i s.latch = ((last + 1 - first).toNat, first) := by
    obtain ⟨hi, rfl, rfl, hn⟩ | ⟨hi, rfl, hlim, hlen⟩ := hcmd
    · rw [bitsToRead_lookup hi hfit hp hn]
      simp
    · rw [bitsToRead_scan hi hfit hp hlim.symm (by omega)]
      simp
  have hlast : last < (s.latch.bsLen.toNat : Int) := by
    obtain ⟨_, _, rfl, hn⟩ | ⟨_, _, _, hlen⟩ := hcmd
    · exact_mod_cast hn
    · exact hlen
  have hstep := step_blockRead hbusy hi hin hbits hq (by omega) hset
  rw [bitAddress_eq hfit (by omega)] at hstep
  dsimp only
  rw [hstep]
  have hcases := fetchByte_cases (bitByteAddress s.latch (first + bs.length)) { s with inputs := rest }
  simp only [inRanges_iff, Bool.eq_false_iff, ne_eq] at hcases
  obtain ⟨hr, h⟩ | ⟨hr, hv, ht, hs, h⟩ | ⟨hr, hfree, h⟩ := hcases <;> rw [h]
  · exact ⟨fun _ => rfl, fun hr' => absurd hr' hr, fun hr' => absurd hr' hr⟩
  · exact ⟨fun hr' => absurd hr hr', fun _ hfree => (hfree.elim (·.elim hv ht) hs).elim, fun _ _ _ => rfl⟩
  · exact ⟨fun hr' => absurd hr hr', fun _ _ => rfl, fun _ hnf hns => ((or_assoc.2 hfree).elim hnf hns).elim⟩

/-! ### The byte of each read -/

/-- Reads of a running command, made one group after the other (R91). -/
theorem afterReads_afterReads (as bs : List Nat) (n k : Nat) (s : State) :
    afterReads bs k (afterReads as n s) = afterReads (as ++ bs) (n + k) s := by
  simp [afterReads, Nat.add_assoc]

/-- With no answer on hand, a bit in a readable byte is that of what memory holds, or of the next free value
(R82, R88, R92). -/
theorem getBit_readable {i : Nat} {s : State} (hq : s.bytesRead = [])
    (hr : InSome s.readable (bitAddress s.latch i)) :
    getBit i s =
      (some (bitOfByte (if FreeByteAt s (bitAddress s.latch i) then Config.freeByte s.draws
          else byteAt s.mem (bitAddress s.latch i)) i),
        afterReads [bitAddress s.latch i] (if FreeByteAt s (bitAddress s.latch i) then 1 else 0) s) := by
  have hstable := stableByte_eq_ite s (bitAddress s.latch i)
  simp only [inRanges_iff] at hstable
  split
  · rename_i hfree
    rw [if_pos hfree] at hstable
    exact getBit_free i s hq (inRanges_iff.2 hr) hstable
  · rename_i hknown
    rw [if_neg hknown] at hstable
    exact getBit_stable i s _ hq (inRanges_iff.2 hr) hstable

/-! ### How a cached command ends -/

/-- The bitset is idempotent exactly where the block finds no byte of it that is not (R88). -/
theorem bitsetVolatile_eq_false_iff (s : State) : bitsetVolatile s = false ↔ BitsetIsIdempotent s := by
  rw [Bool.eq_false_iff, ne_eq, bitsetVolatile_iff, BitsetIsIdempotent]
  push Not
  rfl

/-- A cached command that has its result after some reads completes with it, or with the next free one below 2^(W−1)
where the bitset is not idempotent (R88, log 18). -/
theorem exec_of_returnFromBitset {i : Instr} {s : State} {as : List Nat} {n r : Nat} {x : Work}
    (h : runOf i s = returnFromBitset (widthOf i) r x (afterReads as n s)) :
    (BitsetIsIdempotent s → exec i s = .next (afterSuccess (widthOf i) r false false (afterReads as n s))) ∧
    (¬ BitsetIsIdempotent s → exec i s = .next (afterSuccess (widthOf i)
      ((Config.freeResult (s.draws + n)).toNat % 2 ^ (bitsOf (widthOf i) - 1)) false false
      (afterReads as (n + 1) s))) := by
  have hvol : bitsetVolatile (afterReads as n s) = false ↔ BitsetIsIdempotent s := bitsetVolatile_eq_false_iff s
  rw [exec_eq, h]
  obtain ⟨hv, he⟩ | ⟨hv, he⟩ := returnFromBitset_cases (widthOf i) r x (afterReads as n s) <;> rw [he]
  · refine ⟨fun _ => congrArg _ ?_, fun hno => absurd (hvol.1 hv) hno⟩
    exact completeSuccess_eq_afterSuccess _ r false false as n s.bytesRead s
  · refine ⟨fun hid => absurd (hv.symm.trans (hvol.2 hid)) (by decide), fun _ => congrArg _ ?_⟩
    exact completeSuccess_eq_afterSuccess _ _ false false as (n + 1) s.bytesRead s

theorem exec_of_memFault {i : Instr} {s : State} {as : List Nat} {n : Nat}
    (h : runOf i s = (raiseError .memFault, afterReads as n s)) :
    exec i s = .next (afterError 6#8 false false (afterReads as n s)) := by
  rw [exec_eq, h]
  exact congrArg _ (completeError_eq_afterError .memFault false false as n s.bytesRead s)

/-! ### A scan of the bitset -/

theorem scanned_succ (l : Latches) {n j : Nat} (h : n ≤ j) :
    scanned l n (j + 1) = scanned l n j ++ [bitByteAddress l (j + 1)] := by
  rw [scanned, scanned, Nat.succ_sub h, List.range_succ, List.map_append, List.map_singleton,
    show n + 1 + (j - n) = j + 1 by omega]

theorem freeScanned_succ (s : State) {n j : Nat} (h : n ≤ j) :
    freeScanned s n (j + 1) = freeScanned s n j + if FreeByteAt s (bitByteAddress s.latch (j + 1)) then 1 else 0 := by
  simp only [freeScanned, scanned_succ _ h, List.countP_append, List.countP_singleton, decide_eq_true_eq]

/-- `s` after a scan from bit n + 1 has read the bits up to j (R91, R92). -/
def afterScan (s : State) (n j : Nat) : State := afterReads (scanned s.latch n j) (freeScanned s n j) s

theorem afterScan_start (s : State) (n : Nat) : afterScan s n n = s := by
  simp [afterScan, scanned, freeScanned, afterReads]

/-- The scan's read of the bit after j. -/
theorem getBit_afterScan {s : State} {n j : Nat} (hq : s.bytesRead = []) (hfit : RegionFits s.latch)
    (hle : n ≤ j) (hj : j + 1 < s.latch.bsLen.toNat) (hr : InSome s.readable (bitByteAddress s.latch (j + 1))) :
    getBit (j + 1) (afterScan s n j) =
      (some (bitOfByte (byteScanned s n (j + 1)) (j + 1)), afterScan s n (j + 1)) := by
  have haddr : bitAddress (afterScan s n j).latch (j + 1) = bitByteAddress s.latch (j + 1) := bitAddress_eq hfit hj
  have hbit := getBit_readable (i := j + 1) (s := afterScan s n j) hq (haddr.symm ▸ hr)
  rw [haddr] at hbit
  rw [hbit, afterScan, afterReads_afterReads, afterScan, scanned_succ _ hle, freeScanned_succ _ hle]
  rfl

/-- The bits after n and before j lie in readable bytes, and a scan from bit n + 1 reads each of them as 1 (R227). -/
def SetBetween (s : State) (n j : Nat) : Prop :=
  ∀ k, n < k → k < j → InSome s.readable (bitByteAddress s.latch k) ∧ bitOfByte (byteScanned s n k) k = 1

theorem SetBetween.mono {s : State} {n j k : Nat} (h : SetBetween s n k) (hle : j ≤ k) : SetBetween s n j :=
  fun x h1 h2 => h x h1 (h2.trans_le hle)

/-- A scan goes on past bits that are 1 (R227). -/
theorem scanBits_past_set_bits {s : State} {n q : Nat} (rest : Nat) (hq : s.bytesRead = [])
    (hfit : RegionFits s.latch) (hlen : n + q < s.latch.bsLen.toNat ∨ q = 0)
    (hset : SetBetween s n (n + q + 1)) :
    scanBits (q + rest) (n + 1) s = scanBits rest (n + q + 1) (afterScan s n (n + q)) := by
  induction q generalizing rest with
  | zero => simp only [Nat.zero_add, Nat.add_zero, afterScan_start]
  | succ q ih =>
    have hlt : n + q + 1 < s.latch.bsLen.toNat := by omega
    obtain ⟨hr, hone⟩ := hset (n + q + 1) (by omega) (by omega)
    have hbit := getBit_afterScan hq hfit (Nat.le_add_right n q) hlt hr
    rw [Nat.add_assoc q, Nat.add_comm 1, ih (rest + 1) (by omega) (hset.mono (Nat.le_succ _)),
      scanBits_succ_of_set hbit (by rw [hone]; exact one_ne_zero)]
    rfl

theorem scanBits_stops_at_clear_bit {s : State} {n q : Nat} (rest : Nat) (hq : s.bytesRead = [])
    (hfit : RegionFits s.latch) (hlen : n + q + 1 < s.latch.bsLen.toNat) (hset : SetBetween s n (n + q + 1))
    (hr : InSome s.readable (bitByteAddress s.latch (n + q + 1)))
    (hclear : bitOfByte (byteScanned s n (n + q + 1)) (n + q + 1) = 0) :
    scanBits (q + (rest + 1)) (n + 1) s = (.found (n + q + 1), afterScan s n (n + q + 1)) := by
  rw [scanBits_past_set_bits _ hq hfit (.inl (by omega)) hset, scanBits,
    getBit_afterScan hq hfit (Nat.le_add_right n q) hlen hr]
  exact if_pos hclear

theorem scanBits_stops_at_bus_error {s : State} {n q : Nat} (rest : Nat) (hq : s.bytesRead = [])
    (hfit : RegionFits s.latch) (hlen : n + q + 1 < s.latch.bsLen.toNat) (hset : SetBetween s n (n + q + 1))
    (hr : ¬ InSome s.readable (bitByteAddress s.latch (n + q + 1))) :
    scanBits (q + (rest + 1)) (n + 1) s =
      (.busError, afterReads (scanned s.latch n (n + q + 1)) (freeScanned s n (n + q)) s) := by
  have haddr : bitAddress (afterScan s n (n + q)).latch (n + q + 1) = bitByteAddress s.latch (n + q + 1) :=
    bitAddress_eq hfit hlen
  have hbit := getBit_unreadable (n + q + 1) (afterScan s n (n + q)) hq
    (by rw [haddr, Bool.eq_false_iff, ne_eq, inRanges_iff]; exact hr)
  rw [haddr] at hbit
  rw [scanBits_past_set_bits _ hq hfit (.inl (by omega)) hset, scanBits, hbit,
    scanned_succ _ (Nat.le_add_right n q), ← Nat.add_zero (freeScanned s n (n + q)), ← afterReads_afterReads]
  rfl

/-- How NEXTPRIME_C ends, from the end of its scan and the state after it (R227). -/
def endOfScan (w : Width) (e : ScanEnd) (t : State) : Run × State :=
  match e with
  | .found i => returnFromBitset w i { noWork with i := i } t
  | .none => returnFromBitset w 0 noWork t
  | .busError => (raiseError .memFault, t)

theorem runNextprimeC_eq {w : Width} {s : State} {n : Nat} {lim : Int} (hfit : RegionFits s.latch)
    (hp : opnd w s.latch.p = n) (ha : opnd w s.latch.a = lim) (hlim : lim ≤ s.latch.bsLen.toNat) :
    runNextprimeC w s = endOfScan w (scanBits (lim - (n + 1)).toNat (n + 1) s).1
      (scanBits (lim - (n + 1)).toNat (n + 1) s).2 := by
  rw [runNextprimeC, hp, ha, scanCheck_eq_none hfit hlim, Int.toNat_natCast]
  obtain ⟨_ | _ | _, t⟩ := scanBits (lim - (n + 1)).toNat (n + 1) s <;> rfl

/-! ### The two commands over unspecified bytes -/

theorem one_sub_mod_two (x : Nat) : 1 - x % 2 = if x % 2 = 0 then 1 else 0 := by
  split <;> omega

theorem runOf_eq_runIsprimeC {i : Instr} {w : Width} {bound : Nat} (s : State)
    (h : (i, w, bound) ∈ [(Instr.isprimeC64, Width.w64, 2 ^ 63), (.isprimeC128, .w128, 2 ^ 127)]) :
    runOf i s = runIsprimeC w s ∧ w = widthOf i ∧ bound = 2 ^ (bitsOf (widthOf i) - 1) := by
  simp only [List.mem_cons, Prod.mk.injEq, List.not_mem_nil, or_false] at h
  obtain ⟨rfl, rfl, rfl⟩ | ⟨rfl, rfl, rfl⟩ := h <;> exact ⟨rfl, rfl, rfl⟩

theorem runOf_eq_runNextprimeC {i : Instr} {w : Width} {bound : Nat} (s : State)
    (h : (i, w, bound) ∈ [(Instr.nextprimeC64, Width.w64, 2 ^ 63), (.nextprimeC128, .w128, 2 ^ 127)]) :
    runOf i s = runNextprimeC w s ∧ w = widthOf i ∧ bound = 2 ^ (bitsOf (widthOf i) - 1) := by
  simp only [List.mem_cons, Prod.mk.injEq, List.not_mem_nil, or_false] at h
  obtain ⟨rfl, rfl, rfl⟩ | ⟨rfl, rfl, rfl⟩ := h <;> exact ⟨rfl, rfl, rfl⟩

/-- ISPRIME_C after its one read. -/
theorem runIsprimeC_readable {w : Width} {s : State} {n : Nat} (hq : s.bytesRead = []) (hfit : RegionFits s.latch)
    (hp : opnd w s.latch.p = n) (hn : n < s.latch.bsLen.toNat) (hr : InSome s.readable (bitByteAddress s.latch n)) :
    runIsprimeC w s = returnFromBitset w
      (1 - bitOfByte (if FreeByteAt s (bitByteAddress s.latch n) then Config.freeByte s.draws
        else byteAt s.mem (bitByteAddress s.latch n)) n) { noWork with i := n }
      (afterReads [bitByteAddress s.latch n] (if FreeByteAt s (bitByteAddress s.latch n) then 1 else 0) s) := by
  have haddr := bitAddress_eq hfit hn
  have hbit := getBit_readable hq (haddr.symm ▸ hr)
  rw [haddr] at hbit
  rw [runIsprimeC, hp, lookupCheck_eq_none hfit hn, Int.toNat_natCast]
  dsimp only
  rw [hbit]

/-- Settles O50: ISPRIME_C ends after one read; NEXTPRIME_C passes the bits below j and ends at j or at the limit. -/
theorem unspecifiedByteIsFree : Obligations.UnspecifiedByteIsFree := by
  refine ⟨?_, ?_⟩
  · intro i w bound s n hcmd hq hfit hp hn hr c b
    obtain ⟨hrun, rfl, rfl⟩ := runOf_eq_runIsprimeC s hcmd
    have h := exec_of_returnFromBitset (hrun.trans (runIsprimeC_readable hq hfit hp hn hr))
    rwa [bitOfByte, one_sub_mod_two] at h
  · intro i w bound s n j lim hcmd hq hfit hp ha hlim hlt hset
    obtain ⟨q, rfl⟩ : ∃ q, j = n + q + 1 := ⟨j - (n + 1), by omega⟩
    obtain ⟨hrun, rfl, rfl⟩ := runOf_eq_runNextprimeC s hcmd
    rw [runNextprimeC_eq hfit hp ha hlim] at hrun
    have hcount (k : Nat) (hk : (n + q + 1 : Nat) + (k : Int) = lim) : (lim - (n + 1)).toNat = q + k := by omega
    rw [Nat.add_sub_cancel]
    refine ⟨fun hj hr hclear => ?_, fun hj hr => ?_, fun hend => ?_⟩
    · obtain ⟨k, hk⟩ := Int.le.dest hj
      rw [hcount (k + 1) (by omega),
        scanBits_stops_at_clear_bit k hq hfit (by omega) hset hr hclear] at hrun
      exact exec_of_returnFromBitset hrun
    · obtain ⟨k, hk⟩ := Int.le.dest hj
      rw [hcount (k + 1) (by omega), scanBits_stops_at_bus_error k hq hfit (by omega) hset hr] at hrun
      exact exec_of_memFault hrun
    · have hnone : (lim - (n + 1)).toNat = q + 0 := by omega
      rw [hnone, scanBits_past_set_bits 0 hq hfit (by omega) hset] at hrun
      exact exec_of_returnFromBitset hrun

end Sys2Proof.Machine
end

section
/-! THEOREMS. A hit of baby-step-giant-step is the order of 2 (42_dlog.md R181, R192, R195). -/

namespace Sys2Proof.Machine

open Sys2Proof.Safety

/-! ### The order of 2 -/

/-- The order of 2 modulo an odd p is at most p: 2^φ(p) is 1 (R181). -/
theorem isOrder_le {p t : Nat} (hodd : p % 2 = 1) (h : IsOrder p t) : t ≤ p := by
  have hcop : Nat.Coprime 2 p := (Nat.coprime_two_left).2 (Nat.odd_iff.2 hodd)
  have hpos : 1 ≤ p.totient := Nat.totient_pos.2 (by omega)
  exact (h.2 ⟨hpos, Nat.ModEq.pow_totient hcop⟩).trans (Nat.totient_le p)

/-- A baby step that gives 1 is the first to do so (R192). -/
theorem babySteps_hit_isOrder {p m x : Nat} (hp : 0 < p) (h : (babySteps p m 0 (1 % p) []).1 = some x) :
    IsOrder p x ∧ x ≤ m := by
  obtain ⟨k, hk, hone, hmin, he⟩ | ⟨_, he, _⟩ := babySteps_cases p m 0 (1 % p) [] <;> rw [h] at he
  · simp only [babyValue_eq hp] at hone hmin
    rw [Nat.zero_add] at he
    cases he
    refine ⟨⟨⟨Nat.succ_pos k, hone⟩, fun y hy => ?_⟩, hk⟩
    obtain ⟨hy1, hyone⟩ : 1 ≤ y ∧ 2 ^ y % p = 1 % p := hy
    by_contra hlt
    exact hmin (y - 1) (by omega) (by rwa [Nat.sub_add_cancel hy1])
  · cases he

/-! ### A giant step that hits -/

/-- Two exponents that give 1 differ by one that does. -/
theorem two_pow_sub_modEq_one {p x y : Nat} (hle : x ≤ y) (hx : 2 ^ x ≡ 1 [MOD p]) (hy : 2 ^ y ≡ 1 [MOD p]) :
    2 ^ (y - x) ≡ 1 [MOD p] :=
  calc 2 ^ (y - x)
      ≡ 2 ^ (y - x) * 2 ^ x [MOD p] := by simpa using (hx.symm.mul_left (2 ^ (y - x)))
    _ = 2 ^ y := by rw [← pow_add, Nat.sub_add_cancel hle]
    _ ≡ 1 [MOD p] := hy

/-- The giant step at x div m meets the baby step at x mod m, whenever 2^x is 1 (R193, R195). -/
theorem inverse_pow_div_modEq {p m am x : Nat} (ham : am * 2 ^ m ≡ 1 [MOD p]) (hx : 2 ^ x ≡ 1 [MOD p]) :
    am ^ (x / m) ≡ 2 ^ (x % m) [MOD p] :=
  calc am ^ (x / m)
      ≡ am ^ (x / m) * 2 ^ x [MOD p] := by simpa using (hx.symm.mul_left (am ^ (x / m)))
    _ = am ^ (x / m) * 2 ^ (m * (x / m) + x % m) := by rw [Nat.div_add_mod]
    _ = (am * 2 ^ m) ^ (x / m) * 2 ^ (x % m) := by rw [pow_add, pow_mul, mul_pow, Nat.mul_assoc]
    _ ≡ 1 ^ (x / m) * 2 ^ (x % m) [MOD p] := (ham.pow _).mul_right _
    _ = 2 ^ (x % m) := by rw [one_pow, one_mul]

/-- A giant step and a baby step that meet make up an exponent that gives 1 (R195). -/
theorem two_pow_of_meeting {p m am i j : Nat} (ham : am * 2 ^ m ≡ 1 [MOD p]) (h : am ^ i ≡ 2 ^ j [MOD p]) :
    2 ^ (i * m + j) ≡ 1 [MOD p] :=
  calc 2 ^ (i * m + j)
      = 2 ^ (i * m) * 2 ^ j := pow_add 2 _ _
    _ ≡ 2 ^ (i * m) * am ^ i [MOD p] := h.symm.mul_left _
    _ = (am * 2 ^ m) ^ i := by rw [mul_pow, ← pow_mul, Nat.mul_comm i m, Nat.mul_comm]
    _ ≡ 1 ^ i [MOD p] := ham.pow i
    _ = 1 := one_pow i

/-- After baby steps without a hit, the first giant step that hits gives the order of 2, bounded or not: a smaller
exponent would have been hit before, by a giant or by a baby step (R195). -/
theorem giantSteps_hit_isOrder {w : Width} {p am m : Nat} {bound : Option Int} {t : List TableEntry} {n i j y : Nat}
    (hp : 0 < p) (hmul : ∀ y < p, mulmodP w p y am = y * am % p) (ham : am * 2 ^ m ≡ 1 [MOD p])
    (hmiss : ∀ k < m, 2 ^ (k + 1) % p ≠ 1 % p) (htable : ∀ e, e ∈ t ↔ ∃ k < m, e = ⟨2 ^ k % p, k⟩)
    (h : giantSteps w p am m bound t n 1 (1 % p) = .hit i j y) : IsOrder p (i * m + j) := by
  obtain ⟨k, _, j', hearlier, _, hfound, he⟩ | ⟨_, _, _, _, he⟩ | ⟨_, he⟩ :=
    giantSteps_cases w p am m bound t n 1 (1 % p) <;> rw [h] at he <;> cases he
  rw [giantValue_eq hp hmul] at hfound
  obtain ⟨j', hj, hentry⟩ := (htable _).1 (tableIndex_some t _ _ hfound)
  obtain ⟨hmeet, rfl⟩ := TableEntry.mk.inj hentry
  rw [Nat.add_comm 1 k]
  have hone : 2 ^ ((k + 1) * m + j) ≡ 1 [MOD p] := two_pow_of_meeting ham hmeet
  refine ⟨⟨?_, hone⟩, fun x hx => ?_⟩
  · have : m ≤ (k + 1) * m := Nat.le_mul_of_pos_left m (Nat.succ_pos k)
    omega
  obtain ⟨hx1, hxone⟩ : 1 ≤ x ∧ 2 ^ x ≡ 1 [MOD p] := hx
  have hlong : m < x := by
    by_contra hshort
    exact hmiss (x - 1) (by omega) (by rwa [Nat.sub_add_cancel hx1])
  have hlate : k + 1 ≤ x / m := by
    by_contra hearly
    have hdiv : 0 < x / m := Nat.div_pos hlong.le (by omega)
    obtain ⟨_, hnone⟩ := hearlier (x / m - 1) (by omega)
    rw [Nat.sub_add_cancel hdiv, giantValue_eq hp hmul, inverse_pow_div_modEq ham hxone] at hnone
    exact tableIndex_none t _ hnone _ ((htable _).2 ⟨x % m, Nat.mod_lt _ (by omega), rfl⟩) rfl
  by_contra hlt
  have hnear : (k + 1) * m ≤ x := (Nat.mul_le_mul_right m hlate).trans (Nat.div_mul_le_self x m)
  refine hmiss ((k + 1) * m + j - x - 1) (by omega) ?_
  rw [Nat.sub_add_cancel (by omega)]
  exact two_pow_sub_modEq_one (by omega) hxone hone

end Sys2Proof.Machine
end

section
/-! THEOREMS. The range of a successful result (30_encoding.md R120): every command ends below 2^(W−1), the boolean ones
with 0 or 1. -/

namespace Sys2Proof.Machine

open Sys2Proof.Safety

/-! ### Runs with a bounded result -/

/-- A run that succeeds has a result below `n`. -/
def ResultBelow (n : Nat) (x : Run) : Prop := ∀ r deg cap, x.ending = .success r deg cap → r < n

theorem resultBelow_of_success {n r : Nat} {deg cap : Bool} {x : Run} (h : x.ending = .success r deg cap)
    (hr : r < n) : ResultBelow n x := by
  intro r' _ _ h'
  cases h.symm.trans h'
  exact hr

theorem resultBelow_of_error {n : Nat} {e : ErrorCode} {deg cap : Bool} {x : Run} (h : x.ending = .error e deg cap) :
    ResultBelow n x := by
  intro _ _ _ h'
  cases h.symm.trans h'

theorem returnValue_resultBelow {n r : Nat} (x : Work) (h : r < n) : ResultBelow n (returnValue r x) :=
  resultBelow_of_success rfl h

theorem raiseError_resultBelow (n : Nat) (e : ErrorCode) : ResultBelow n (raiseError e) := resultBelow_of_error rfl

theorem checkedRun_resultBelow {n : Nat} {c : Option ErrorCode} {x : Run} (h : c = none → ResultBelow n x) :
    ResultBelow n (checkedRun c x) := by
  cases c with
  | some e => exact raiseError_resultBelow n e
  | none => exact h rfl

/-- The exclusive bound of R120 on a result at width `w`. -/
def resultLimit (w : Width) : Nat := 2 ^ (bitsOf w - 1)

theorem opnd_toNat_lt (w : Width) (x : Wide) : (opnd w x).toNat < resultLimit w := by
  have h := opnd_lt w x
  have hpos : 0 < resultLimit w := Nat.two_pow_pos _
  rw [Int.toNat_lt' hpos, resultLimit]
  exact_mod_cast h

theorem two_le_resultLimit (w : Width) : 2 ≤ resultLimit w := by cases w <;> decide

/-! ### What the checks leave -/

theorem mulCheck_none {p a b : Int} (h : mulCheck p a b = none) : 0 < p ∧ 0 ≤ a ∧ a < p ∧ 0 ≤ b ∧ b < p := by
  unfold mulCheck at h
  split_ifs at h
  omega

theorem powCheck_none {p k : Int} (h : powCheck p k = none) : 0 < p ∧ 0 ≤ k := by
  unfold powCheck at h
  split_ifs at h
  omega

theorem powBackCheck_none {p k : Int} (h : powBackCheck p k = none) : 0 < p ∧ p % 2 = 1 ∧ 0 ≤ k := by
  unfold powBackCheck at h
  split_ifs at h
  omega

theorem powBaseCheck_none {p k b : Int} (h : powBaseCheck p k b = none) : 0 < p ∧ 0 ≤ k ∧ 0 ≤ b := by
  unfold powBaseCheck at h
  split_ifs at h
  omega

/-! ### Residues -/

/-- The last subtraction of the 256-bit datapath leaves a residue (R145). -/
theorem reduceWide_lt {p : Nat} (hp : 0 < p) (hi lo : Nat) : reduceWide p hi lo < p := by
  have hhigh := repeatStep_lt (dbl p) p 128 (hi % p) (dbl_lt p) (Nat.mod_lt _ hp)
  have hlow := Nat.mod_lt lo hp
  unfold reduceWide
  dsimp only
  split <;> omega

/-- Whatever the operands and the path, the multiplier gives a residue (R143, R145). -/
theorem mulmodP_lt (w : Width) {p : Nat} (hp : 0 < p) (a b : Nat) : mulmodP w p a b < p := by
  cases w with
  | w64 =>
    dsimp only [mulmodP, mulmodPath64]
    split <;> exact Nat.mod_lt _ hp
  | w128 =>
    dsimp only [mulmodP, mulmodPath128]
    split
    · exact Nat.mod_lt _ hp
    · exact reduceWide_lt hp _ _

theorem addmodP_lt {p a b : Nat} (ha : a < p) (hb : b < p) : addmodP p a b < p := by
  rw [addmodP_eq_mod p a b ha hb]
  exact Nat.mod_lt _ (by omega)

theorem squareMultiply_lt (w : Width) {p : Nat} (hp : 0 < p) (n : Nat) {r : Nat} (x e : Nat) (hr : r < p) :
    squareMultiply w p n r x e < p := by
  induction n generalizing r x e with
  | zero => exact hr
  | succ n ih =>
    unfold squareMultiply
    split
    · exact hr
    · refine ih _ _ ?_
      split
      · exact mulmodP_lt w hp r x
      · exact hr

theorem powLog_lt (w : Width) {p : Nat} (hp : 0 < p) (b k : Nat) : powLog w p b k < p :=
  squareMultiply_lt w hp _ _ _ (Nat.mod_lt _ hp)

theorem powForward_lt {p : Nat} (hp : 0 < p) (k : Nat) : powForward p k < p :=
  repeatStep_lt _ p k _ (dbl_lt p) (Nat.mod_lt _ hp)

/-- A residue of the modulus of a command is in range. -/
theorem residue_resultBelow {w : Width} {x : Wide} {r : Nat} (y : Work) (h : r < (opnd w x).toNat) :
    ResultBelow (resultLimit w) (returnValue r y) :=
  returnValue_resultBelow y (h.trans (opnd_toNat_lt w x))

theorem runMulmod_resultBelow (w : Width) (l : Latches) : ResultBelow (resultLimit w) (runMulmod w l) :=
  checkedRun_resultBelow fun hc => by
    obtain ⟨hp, _⟩ := mulCheck_none hc
    exact residue_resultBelow _ (mulmodP_lt w (by omega) _ _)

theorem runAddmod_resultBelow (w : Width) (l : Latches) : ResultBelow (resultLimit w) (runAddmod w l) :=
  checkedRun_resultBelow fun hc => by
    obtain ⟨hp, ha0, ha, hb0, hb⟩ := mulCheck_none hc
    exact residue_resultBelow _ (addmodP_lt (by omega) (by omega))

theorem runPow2f_resultBelow (w : Width) (l : Latches) : ResultBelow (resultLimit w) (runPow2f w l) :=
  checkedRun_resultBelow fun hc => by
    obtain ⟨hp, _⟩ := powCheck_none hc
    exact residue_resultBelow _ (powForward_lt (by omega) _)

theorem runPow2b_resultBelow (w : Width) (l : Latches) : ResultBelow (resultLimit w) (runPow2b w l) :=
  checkedRun_resultBelow fun hc => by
    obtain ⟨hp, _⟩ := powBackCheck_none hc
    exact residue_resultBelow _ (powBackward_lt (by omega) _)

theorem runPow2l_resultBelow (w : Width) (l : Latches) : ResultBelow (resultLimit w) (runPow2l w l) :=
  checkedRun_resultBelow fun hc => by
    obtain ⟨hp, _⟩ := powCheck_none hc
    exact residue_resultBelow _ (powLog_lt w (by omega) _ _)

theorem runPowl_resultBelow (w : Width) (l : Latches) : ResultBelow (resultLimit w) (runPowl w l) :=
  checkedRun_resultBelow fun hc => by
    obtain ⟨hp, _⟩ := powBaseCheck_none hc
    exact residue_resultBelow _ (powLog_lt w (by omega) _ _)

/-! ### Discrete logarithms -/

/-- The unbounded linear loop makes at most p steps (R181). -/
theorem linearOrder_le (f : Nat → Nat) {p : Nat} (hp : 0 < p) : linearOrder f p ≤ p := by
  have hbound : orderBound p ≤ p := by unfold orderBound; omega
  obtain ⟨k, hk, _, _, he⟩ | ⟨_, he⟩ := stepUntil_cases f (1 % p) (orderBound p) 0 (1 % p) <;>
    rw [linearOrder, he] <;> omega

/-- A bounded linear search ends below its limit (R185). -/
theorem linearWithin_le (f : Nat → Nat) (p : Nat) (lim : Int) : linearWithin f p lim ≤ lim.toNat := by
  obtain ⟨k, hk, _, _, he⟩ | ⟨_, he⟩ := stepWithin_cases f (1 % p) (lim - 1).toNat 1 (1 % p) <;>
    rw [linearWithin, he] <;> omega

theorem linearOrder_resultBelow {w : Width} (f : Nat → Nat) {x : Wide} (y : Work) (hp : 0 < opnd w x) :
    ResultBelow (resultLimit w) (returnValue (linearOrder f (opnd w x).toNat) y) :=
  returnValue_resultBelow y ((linearOrder_le f (by omega)).trans_lt (opnd_toNat_lt w x))

theorem linearWithin_resultBelow (w : Width) (f : Nat → Nat) (p : Nat) (x : Wide) (y : Work) :
    ResultBelow (resultLimit w) (returnValue (linearWithin f p (opnd w x)) y) :=
  returnValue_resultBelow y ((linearWithin_le f p _).trans_lt (opnd_toNat_lt w x))

theorem runDlogMn_resultBelow (w : Width) (l : Latches) : ResultBelow (resultLimit w) (runDlogMn w l) :=
  checkedRun_resultBelow fun hc => linearOrder_resultBelow _ _ (odd_of_dlogCheck hc).1

theorem runDlogPl_resultBelow (w : Width) (l : Latches) : ResultBelow (resultLimit w) (runDlogPl w l) :=
  checkedRun_resultBelow fun hc => linearOrder_resultBelow _ _ (odd_of_dlogCheck hc).1

theorem runDlogMnLim_resultBelow (w : Width) (l : Latches) : ResultBelow (resultLimit w) (runDlogMnLim w l) :=
  checkedRun_resultBelow fun _ => linearWithin_resultBelow w _ _ _ _

theorem runDlogPlLim_resultBelow (w : Width) (l : Latches) : ResultBelow (resultLimit w) (runDlogPlLim w l) :=
  checkedRun_resultBelow fun _ => linearWithin_resultBelow w _ _ _ _

theorem candidateResult_le (bound : Option Int) (x : Nat) : candidateResult bound x ≤ x := by
  unfold candidateResult
  split
  · exact le_rfl
  · split
    · exact le_rfl
    · exact Nat.zero_le x

/-- The fallback is a linear search, with the limit of the bounded form (R194). -/
theorem fallbackResult_lt {p n : Nat} {bound : Option Int} (hp0 : 0 < p) (hp : p < n)
    (hlim : ∀ lim ∈ bound, lim.toNat < n) : fallbackResult p bound < n := by
  cases bound with
  | none => exact (linearOrder_le _ hp0).trans_lt hp
  | some lim => exact (linearWithin_le _ p lim).trans_lt (hlim lim rfl)

/-- After baby steps without a hit: the fallback's result, the order of 2, the sentinel 0, or no result. -/
theorem giantPhase_resultBelow {w : Width} {p m : Nat} (cap : Bool) {bound : Option Int} {t : List TableEntry}
    (hodd : p % 2 = 1) (hp : p < resultLimit w) (hlim : ∀ lim ∈ bound, lim.toNat < resultLimit w)
    (hmiss : ∀ k < m, 2 ^ (k + 1) % p ≠ 1 % p) (htable : ∀ e, e ∈ t ↔ ∃ k < m, e = ⟨2 ^ k % p, k⟩) :
    ResultBelow (resultLimit w) (giantPhase w p m cap bound t) := by
  have hp0 : 0 < p := by omega
  have hsentinel : 0 < resultLimit w := hp0.trans hp
  unfold giantPhase
  dsimp only
  split
  · exact resultBelow_of_success rfl (fallbackResult_lt hp0 hp hlim)
  · rename_i hdeg
    split
    · rename_i i j y hhit
      have horder := giantSteps_hit_isOrder hp0 (fun y hy => mulmodP_giant hp (powBackward_lt hp0 m) hy hdeg)
        (powBackward_mul hodd m) hmiss htable hhit
      exact resultBelow_of_success rfl
        ((candidateResult_le bound _).trans_lt ((isOrder_le hodd horder).trans_lt hp))
    · exact resultBelow_of_success rfl hsentinel
    · cases bound with
      | none => exact resultBelow_of_error rfl
      | some lim => exact resultBelow_of_success rfl hsentinel

theorem bsgs_resultBelow {w : Width} {p : Nat} (budget : Nat) {bound : Option Int} (hodd : p % 2 = 1)
    (hp : p < resultLimit w) (hlim : ∀ lim ∈ bound, lim.toNat < resultLimit w) :
    ResultBelow (resultLimit w) (bsgs w p budget bound) := by
  have hp0 : 0 < p := by omega
  unfold bsgs
  dsimp only
  split
  · rename_i x t hbaby
    obtain ⟨horder, _⟩ := babySteps_hit_isOrder hp0 (congrArg Prod.fst hbaby)
    exact resultBelow_of_success rfl
      ((candidateResult_le bound _).trans_lt ((isOrder_le hodd horder).trans_lt hp))
  · rename_i t hbaby
    obtain ⟨_, _, _, _, hsome⟩ | ⟨hmiss, _, hmem⟩ := babySteps_cases p (stepSize w p budget) 0 (1 % p) []
    · rw [hbaby] at hsome
      cases hsome
    · simp only [hbaby, babyValue_eq hp0, List.not_mem_nil, false_or, Nat.zero_add] at hmiss hmem
      exact giantPhase_resultBelow _ hodd hp hlim hmiss hmem

theorem checked_bsgs_resultBelow (w : Width) (l : Latches) {bound : Option Int}
    (hlim : ∀ lim ∈ bound, lim.toNat < resultLimit w) : ResultBelow (resultLimit w)
      (checkedRun (dlogCheck (opnd w l.p)) (bsgs w (opnd w l.p).toNat l.budget.toNat bound)) :=
  checkedRun_resultBelow fun hc => by
    obtain ⟨hpos, hodd⟩ := odd_of_dlogCheck hc
    exact bsgs_resultBelow _ (by omega) (opnd_toNat_lt w l.p) hlim

theorem runDlogBg_resultBelow (w : Width) (l : Latches) : ResultBelow (resultLimit w) (runDlogBg w l) :=
  checked_bsgs_resultBelow w l (by simp)

theorem runDlogBgLim_resultBelow (w : Width) (l : Latches) : ResultBelow (resultLimit w) (runDlogBgLim w l) :=
  checked_bsgs_resultBelow w l (by simpa using opnd_toNat_lt w l.a)

/-! ### Primality -/

theorem ResultBelow.mono {n k : Nat} {x : Run} (h : ResultBelow n x) (hle : n ≤ k) : ResultBelow k x :=
  fun r deg cap hx => (h r deg cap hx).trans_le hle

theorem runTrial_resultBelow_two (f : Nat → Bool) (n : Int) : ResultBelow 2 (runTrial f n) :=
  returnValue_resultBelow _ (Bool.toNat_lt _)

/-- A cached command's own result, or a free one that R120 allows (R88, log 18). -/
theorem returnFromBitset_resultBelow (w : Width) {r : Nat} (x : Work) (s : State) (h : r < resultLimit w) :
    ResultBelow (resultLimit w) (returnFromBitset w r x s).1 := by
  obtain ⟨_, he⟩ | ⟨_, he⟩ := returnFromBitset_cases w r x s <;> rw [he]
  · exact returnValue_resultBelow x h
  · exact returnValue_resultBelow x (Nat.mod_lt _ (Nat.two_pow_pos _))

theorem runIsprimeC_resultBelow (w : Width) (s : State) : ResultBelow (resultLimit w) (runIsprimeC w s).1 := by
  have htwo := two_le_resultLimit w
  unfold runIsprimeC
  split
  · exact raiseError_resultBelow _ _
  · split
    · exact returnFromBitset_resultBelow w _ _ (by omega)
    · exact raiseError_resultBelow _ _

/-- Over an idempotent bitset ISPRIME_C gives 1 minus a bit (R225). -/
theorem runIsprimeC_resultBelow_two (w : Width) {s : State} (h : BitsetIsIdempotent s) :
    ResultBelow 2 (runIsprimeC w s).1 := by
  unfold runIsprimeC
  split
  · exact raiseError_resultBelow _ _
  · split
    · rename_i b t hbit
      have hreads := getBit_readsOnly (opnd w s.latch.p).toNat s
      rw [hbit] at hreads
      have hidem : bitsetVolatile t = false :=
        (bitsetVolatile_eq_false_iff t).2 (by rw [BitsetIsIdempotent, hreads.latch, hreads.volatile]; exact h)
      rw [returnFromBitset, if_neg (by simp [hidem])]
      exact returnValue_resultBelow _ (by omega)
    · exact raiseError_resultBelow _ _

/-- NEXTPRIME_C finds an index below its limit (R227). -/
theorem runNextprimeC_resultBelow (w : Width) (s : State) : ResultBelow (resultLimit w) (runNextprimeC w s).1 := by
  have htwo := two_le_resultLimit w
  have hlim := opnd_toNat_lt w s.latch.a
  unfold runNextprimeC
  split
  · exact raiseError_resultBelow _ _
  · rename_i hc
    obtain ⟨_, hn, _⟩ := scanCheck_none hc
    split
    · rename_i j t hscan
      obtain ⟨_, hj⟩ := scanBits_found _ _ j s (congrArg Prod.fst hscan)
      exact returnFromBitset_resultBelow w _ _ (by omega)
    · exact returnFromBitset_resultBelow w _ _ (by omega)
    · exact raiseError_resultBelow _ _

/-! ### Every command -/

theorem runOf_resultBelow (i : Instr) (s : State) : ResultBelow (resultLimit (widthOf i)) (runOf i s).1 := by
  cases i with
  | mulmod64 | mulmod128 => exact runMulmod_resultBelow _ _
  | addmod64 | addmod128 => exact runAddmod_resultBelow _ _
  | pow2f64 | pow2f128 => exact runPow2f_resultBelow _ _
  | pow2b64 | pow2b128 => exact runPow2b_resultBelow _ _
  | pow2l64 | pow2l128 => exact runPow2l_resultBelow _ _
  | powl64 | powl128 => exact runPowl_resultBelow _ _
  | dlogMn64 | dlogMn128 => exact runDlogMn_resultBelow _ _
  | dlogPl64 | dlogPl128 => exact runDlogPl_resultBelow _ _
  | dlogBg64 | dlogBg128 => exact runDlogBg_resultBelow _ _
  | dlogMnLim64 | dlogMnLim128 => exact runDlogMnLim_resultBelow _ _
  | dlogPlLim64 | dlogPlLim128 => exact runDlogPlLim_resultBelow _ _
  | dlogBgLim64 | dlogBgLim128 => exact runDlogBgLim_resultBelow _ _
  | isprime64 | isprime128 | isprimeW6n64 | isprimeW6n128 | isprimeW30n64 | isprimeW30n128 =>
    exact (runTrial_resultBelow_two _ _).mono (two_le_resultLimit _)
  | isprimeC64 | isprimeC128 => exact runIsprimeC_resultBelow _ s
  | nextprimeC64 | nextprimeC128 => exact runNextprimeC_resultBelow _ s

/-- The commands that test by trial division (R221 to R223). -/
def trialCommands : List Instr :=
  [.isprime64, .isprime128, .isprimeW6n64, .isprimeW6n128, .isprimeW30n64, .isprimeW30n128]

theorem runOf_resultBelow_two {i : Instr} {s : State}
    (h : i ∈ trialCommands ∨ (i ∈ [Instr.isprimeC64, .isprimeC128] ∧ BitsetIsIdempotent s)) :
    ResultBelow 2 (runOf i s).1 := by
  simp only [trialCommands, List.mem_cons, List.not_mem_nil, or_false] at h
  obtain (rfl | rfl | rfl | rfl | rfl | rfl) | ⟨rfl | rfl, hidem⟩ := h
  case inr.inl | inr.inr => exact runIsprimeC_resultBelow_two _ hidem
  all_goals exact runTrial_resultBelow_two _ _

/-- A command that leaves ERR clear has succeeded, with the result of its run (R255). -/
theorem exec_success {i : Instr} {s t : State} (h : exec i s = .next t) (herr : t.status.err = false) :
    ∃ r deg cap u, (runOf i s).1.ending = .success r deg cap ∧ t = completeSuccess (widthOf i) r deg cap u := by
  obtain ⟨u, _, ⟨r, deg, cap, hend, rfl⟩ | ⟨_, _, _, _, rfl⟩⟩ := exec_cases i s t h
  · exact ⟨r, deg, cap, u, hend, rfl⟩
  · cases herr

/-- Settles O27: the completion writes the result of the run, which is in range. -/
theorem resultsAreInRange : Obligations.ResultsAreInRange := by
  intro i s t h herr
  obtain ⟨r, deg, cap, u, hend, rfl⟩ := exec_success h herr
  have hrange : r < resultLimit (widthOf i) := runOf_resultBelow i s r deg cap hend
  refine ⟨fun hw => ?_, fun hw => ?_, fun hbool => ?_⟩
  · rw [hw] at hrange ⊢
    have hr : r < 2 ^ 63 := hrange
    refine ⟨rfl, ?_⟩
    rw [completeSuccess_rLo, BitVec.toNat_ofNat]
    omega
  · rw [hw] at hrange ⊢
    have hr : r < 2 ^ 127 := hrange
    rw [completeSuccess_rHi, BitVec.toNat_ofNat]
    omega
  · have hr : r < 2 := runOf_resultBelow_two hbool r deg cap hend
    have hdigit : r = 0 ∨ r = 1 := by omega
    obtain rfl | rfl := hdigit
    · exact ⟨by cases widthOf i <;> rfl, .inl rfl⟩
    · exact ⟨by cases widthOf i <;> rfl, .inr rfl⟩

end Sys2Proof.Machine
end

section
/-! THEOREMS. The command words: which of them decode, and to what (30_encoding.md R110 to R117; 60_exceptions.md
R251). -/

namespace Sys2Proof.Machine

open Sys2Proof.Safety

/-! ### Every command's word decodes to it -/

/-- The three fields are found again in the word that they make up (R111). -/
theorem fieldsOf_wordOf (f : CmdFields) : fieldsOf (wordOf f) = f := by
  obtain ⟨rsv, w, op⟩ := f
  have hupper (start len : Nat) (h : 8 ≤ start) : (rsv ++ w ++ op : BitVec 64).extractLsb' start len =
      (rsv ++ w).extractLsb' (start - 8) len := BitVec.extractLsb'_append_eq_of_le h
  simp only [fieldsOf, wordOf, CmdFields.mk.injEq]
  refine ⟨?_, ?_, BitVec.extractLsb'_append_eq_right⟩
  · exact (hupper 9 55 (by decide)).trans BitVec.extractLsb'_append_eq_left
  · exact (hupper 8 1 (by decide)).trans BitVec.extractLsb'_append_eq_right

/-- The row of the opcode map with a command's OP value holds that command at its width (R113). -/
theorem find_opOf (i : Instr) :
    ∃ r, opMap.find? (fun r => r.op == opOf i) = some r ∧ r.select i.fields.w = i := by
  cases i <;> exact ⟨_, rfl, rfl⟩

theorem decode_encode (i : Instr) : decode (encode i) = .ok i := by
  obtain ⟨r, hrow, hselect⟩ := find_opOf i
  have hop : i.fields.op = opOf i := rfl
  have hrsv : i.fields.rsv = 0#55 := rfl
  simp only [decode, encode, fieldsOf_wordOf, hrsv, if_true, hop, hrow, hselect]

/-- The eight bytes of a word, put together again, are the word (R32). -/
theorem decodeBytes_bytesOfWord (c : Word) : decodeBytes (bytesOfWord c) = decode c := by
  have hword : (wordByte c 7 ++ wordByte c 6 ++ wordByte c 5 ++ wordByte c 4 ++ wordByte c 3 ++ wordByte c 2 ++
      wordByte c 1 ++ wordByte c 0 : BitVec 64) = c.extractLsb' 0 64 := by
    simp only [wordByte, BitVec.extractLsb'_append_extractLsb'_eq_extractLsb']
  rw [BitVec.extractLsb'_eq_self] at hword
  exact congrArg decode hword

/-- Settles O2: the word's fields are the command's, and the row of its OP value is found; the converse puts the fields
of a decoded word together again. -/
theorem decodeInvertsEncode : Obligations.DecodeInvertsEncode :=
  ⟨fun i _ => ⟨decode_encode i, (decodeBytes_bytesOfWord _).trans (decode_encode i)⟩, fun _ _ => eq_encode_of_decode⟩

/-! ### The words that are refused -/

/-- Decoding refuses a word whose RSV is set or whose OP is in no row of the opcode map (R114, R117). -/
theorem decode_eq_error_iff (c : Word) :
    (∃ e, decode c = .error e) ↔ (fieldsOf c).rsv ≠ 0#55 ∨ (fieldsOf c).op ∉ opMap.map OpRow.op := by
  unfold decode
  dsimp only
  split
  · rename_i hrsv
    split
    · rename_i r hr
      have hop : (fieldsOf c).op ∈ opMap.map OpRow.op :=
        List.mem_map.2 ⟨r, List.mem_of_find?_eq_some hr, by simpa using List.find?_some hr⟩
      simp [hrsv, hop]
    · rename_i hnone
      have hop : (fieldsOf c).op ∉ opMap.map OpRow.op := by
        simpa using List.find?_eq_none.1 hnone
      simp [hop]
  · rename_i hrsv
    simp [hrsv]

theorem rsv_ne_zero_iff (c : Word) : (fieldsOf c).rsv ≠ 0#55 ↔ c.toNat / 2 ^ 9 ≠ 0 := by
  have hrsv : (fieldsOf c).rsv.toNat = c.toNat / 2 ^ 9 := by
    rw [fieldsOf, BitVec.extractLsb'_toNat, Nat.shiftRight_eq_div_pow]
    omega
  rw [← hrsv, ne_eq, ← BitVec.toNat_inj]
  rfl

theorem op_toNat (c : Word) : (fieldsOf c).op.toNat = c.toNat % 2 ^ 8 := by
  rw [fieldsOf, BitVec.extractLsb'_toNat, Nat.shiftRight_zero]

theorem op_mem_opMap_iff (c : Word) : (fieldsOf c).op ∈ opMap.map OpRow.op ↔ c.toNat % 2 ^ 8 ∈
    [0x01, 0x02, 0x08, 0x09, 0x0A, 0x0B, 0x10, 0x11, 0x12, 0x14, 0x15, 0x16, 0x20, 0x21, 0x22, 0x24, 0x25] := by
  rw [← op_toNat, ← List.mem_map_of_injective BitVec.toNat_injective]
  rfl

/-- Settles O3: the fields of a word, read as numbers. -/
theorem reservedWordsAreRefused : Obligations.ReservedWordsAreRefused := fun c =>
  (decode_eq_error_iff c).trans (or_congr (rsv_ne_zero_iff c) (not_congr (op_mem_opMap_iff c)))

theorem completeRun_of_refused {s : State} {e : DecodeError} (h : decode s.latch.cmd = .error e) :
    completeRun s = afterError 1#8 false false s := by
  rw [completeRun, h]
  rfl

/-- Settles O5: the word is refused, and the completion of a refused word is ILLEGAL_COMMAND. -/
theorem reservedWordCompletesIllegal : Obligations.ReservedWordCompletesIllegal := by
  intro s rest hbusy hreserved
  obtain ⟨e, he⟩ := (reservedWordsAreRefused s.latch.cmd).2 hreserved
  refine ⟨fun hin => ?_, fun hin => ?_⟩
  · rw [step_nil hin, afterEvent, if_pos hbusy, completeRun_of_refused he]
  · rw [step_cons hin, afterEvent, if_pos hbusy, completeRun_of_refused (s := { s with inputs := rest }) he]

/-- Settles O1: four commands' words, and two OP values and an RSV that no row has. -/
theorem sampleWordsDecode : Obligations.SampleWordsDecode :=
  ⟨decode_encode .mulmod64, decode_encode .powl128, decode_encode .dlogBgLim64, decode_encode .nextprimeC128,
    rfl, rfl, rfl⟩

end Sys2Proof.Machine
end

section
/-! THEOREMS. Which command reports which error: the checks of each family raise codes 2 to 5, and a run that they let
begin raises none of these (40_widearith.md R140, 41_modpow.md R160, 42_dlog.md R180, 60_exceptions.md R250 to R260). -/

namespace Sys2Proof.Machine

open Sys2Proof.Safety

/-! ### What each check answers -/

theorem mulCheck_eq_some_iff {p a b : Int} {e : ErrorCode} : mulCheck p a b = some e ↔
    (e = .invalidOperand ∧ p ≤ 0) ∨ (e = .operandRange ∧ 0 < p ∧ (a < 0 ∨ p ≤ a ∨ b < 0 ∨ p ≤ b)) := by
  unfold mulCheck
  split_ifs <;> grind

theorem powCheck_eq_some_iff {p k : Int} {e : ErrorCode} : powCheck p k = some e ↔
    (e = .invalidOperand ∧ p ≤ 0) ∨ (e = .operandRange ∧ 0 < p ∧ k < 0) := by
  unfold powCheck
  split_ifs <;> grind

theorem powBackCheck_eq_some_iff {p k : Int} {e : ErrorCode} : powBackCheck p k = some e ↔
    (e = .invalidOperand ∧ p ≤ 0) ∨ (e = .evenModulus ∧ 0 < p ∧ p % 2 = 0) ∨
    (e = .operandRange ∧ 0 < p ∧ p % 2 = 1 ∧ k < 0) := by
  unfold powBackCheck
  split_ifs <;> grind

theorem powBaseCheck_eq_some_iff {p k b : Int} {e : ErrorCode} : powBaseCheck p k b = some e ↔
    (e = .invalidOperand ∧ p ≤ 0) ∨ (e = .operandRange ∧ 0 < p ∧ (k < 0 ∨ b < 0)) := by
  unfold powBaseCheck
  split_ifs <;> grind

theorem dlogCheck_eq_some_iff {p : Int} {e : ErrorCode} : dlogCheck p = some e ↔
    (e = .invalidOperand ∧ p ≤ 0) ∨ (e = .evenModulus ∧ 0 < p ∧ p % 2 = 0) := by
  unfold dlogCheck
  split_ifs <;> grind

/-- The region check of R85 holds exactly where the bitset does not wrap. -/
theorem regionOk_eq_false_iff {l : Latches} : regionOk l = false ↔ ¬ RegionFits l := by
  refine ⟨fun h hfit => ?_, fun h => ?_⟩
  · rw [regionOk_of_regionFits hfit] at h
    cases h
  · refine decide_eq_false fun hend => h ⟨regionBytes l, ?_, hend⟩
    unfold regionBytes
    omega

theorem lookupCheck_eq_some_iff {l : Latches} {n : Int} {e : ErrorCode} : lookupCheck l n = some e ↔
    e = .bitsetRange ∧ (¬ RegionFits l ∨ n < 0 ∨ (l.bsLen.toNat : Int) ≤ n) := by
  rw [← regionOk_eq_false_iff]
  unfold lookupCheck
  split_ifs <;> grind

theorem scanCheck_eq_some_iff {l : Latches} {n lim : Int} {e : ErrorCode} : scanCheck l n lim = some e ↔
    e = .bitsetRange ∧ (¬ RegionFits l ∨ n < 0 ∨ (l.bsLen.toNat : Int) < lim) := by
  rw [← regionOk_eq_false_iff]
  unfold scanCheck
  split_ifs <;> grind

/-! ### What a run reports of its check -/

/-- The errors that no check raises: a read or the giant steps do (R258, R259). -/
def runErrors : List ErrorCode := [.memFault, .exhausted]

/-- The run ends in an error of a check exactly where check `c` raised it (R260). -/
def ReportsCheck (c : Option ErrorCode) (x : Run) : Prop :=
  ∀ e, e ∉ runErrors → ((∃ deg cap, x.ending = .error e deg cap) ↔ c = some e)

theorem raiseError_reportsCheck (e : ErrorCode) : ReportsCheck (some e) (raiseError e) := by
  intro e' _
  simp [raiseError]

theorem reportsCheck_none_of_success {x : Run} {r : Nat} {deg cap : Bool} (h : x.ending = .success r deg cap) :
    ReportsCheck none x := by
  intro e _
  simp [h]

theorem reportsCheck_none_of_error {x : Run} {e : ErrorCode} {deg cap : Bool} (he : e ∈ runErrors)
    (h : x.ending = .error e deg cap) : ReportsCheck none x := by
  intro e' he'
  have hne : e ≠ e' := fun heq => he' (heq ▸ he)
  simp [h, hne]

theorem returnValue_reportsCheck (r : Nat) (k : Work) : ReportsCheck none (returnValue r k) :=
  reportsCheck_none_of_success rfl

theorem checkedRun_reportsCheck {c : Option ErrorCode} {x : Run} (h : ReportsCheck none x) :
    ReportsCheck c (checkedRun c x) := by
  cases c with
  | some e => exact raiseError_reportsCheck e
  | none => exact h

/-- Baby-step-giant-step raises no error but EXHAUSTED (R259). -/
theorem giantPhase_reportsCheck (w : Width) (p m : Nat) (cap : Bool) (bound : Option Int) (t : List TableEntry) :
    ReportsCheck none (giantPhase w p m cap bound t) := by
  unfold giantPhase
  dsimp only
  split
  · exact reportsCheck_none_of_success rfl
  · split
    · exact reportsCheck_none_of_success rfl
    · exact reportsCheck_none_of_success rfl
    · cases bound with
      | none => exact reportsCheck_none_of_error (by decide) rfl
      | some lim => exact reportsCheck_none_of_success rfl

theorem bsgs_reportsCheck (w : Width) (p budget : Nat) (bound : Option Int) :
    ReportsCheck none (bsgs w p budget bound) := by
  unfold bsgs
  dsimp only
  split
  · exact reportsCheck_none_of_success rfl
  · exact giantPhase_reportsCheck w p _ _ bound _

theorem returnFromBitset_reportsCheck (w : Width) (r : Nat) (k : Work) (s : State) :
    ReportsCheck none (returnFromBitset w r k s).1 := by
  obtain ⟨_, h⟩ | ⟨_, h⟩ := returnFromBitset_cases w r k s <;> rw [h] <;> exact returnValue_reportsCheck _ k

theorem memFault_reportsCheck : ReportsCheck none (raiseError .memFault) :=
  reportsCheck_none_of_error (by decide) rfl

theorem runIsprimeC_reportsCheck (w : Width) (s : State) :
    ReportsCheck (lookupCheck s.latch (opnd w s.latch.p)) (runIsprimeC w s).1 := by
  unfold runIsprimeC
  cases lookupCheck s.latch (opnd w s.latch.p) with
  | some e => exact raiseError_reportsCheck e
  | none =>
    rcases getBit (opnd w s.latch.p).toNat s with ⟨_ | b, t⟩
    · exact memFault_reportsCheck
    · exact returnFromBitset_reportsCheck w _ _ t

theorem runNextprimeC_reportsCheck (w : Width) (s : State) :
    ReportsCheck (scanCheck s.latch (opnd w s.latch.p) (opnd w s.latch.a)) (runNextprimeC w s).1 := by
  unfold runNextprimeC
  cases scanCheck s.latch (opnd w s.latch.p) (opnd w s.latch.a) with
  | some e => exact raiseError_reportsCheck e
  | none =>
    rcases scanBits (opnd w s.latch.a - (opnd w s.latch.p + 1)).toNat ((opnd w s.latch.p).toNat + 1) s with
      ⟨i | _ | _, t⟩
    · exact returnFromBitset_reportsCheck w _ _ t
    · exact returnFromBitset_reportsCheck w _ _ t
    · exact memFault_reportsCheck

/-! ### Every command -/

/-- The check that command `i` makes on its operand values (R140, R160, R180, R225, R227); a trial division makes none
(R220). -/
def checkOfCommand (i : Instr) (l : Latches) (p a b : Int) : Option ErrorCode :=
  match i with
  | .mulmod64 | .mulmod128 | .addmod64 | .addmod128 => mulCheck p a b
  | .pow2f64 | .pow2f128 | .pow2l64 | .pow2l128 => powCheck p a
  | .pow2b64 | .pow2b128 => powBackCheck p a
  | .powl64 | .powl128 => powBaseCheck p a b
  | .dlogMn64 | .dlogMn128 | .dlogPl64 | .dlogPl128 | .dlogBg64 | .dlogBg128 | .dlogMnLim64 | .dlogMnLim128
  | .dlogPlLim64 | .dlogPlLim128 | .dlogBgLim64 | .dlogBgLim128 => dlogCheck p
  | .isprime64 | .isprime128 | .isprimeW6n64 | .isprimeW6n128 | .isprimeW30n64 | .isprimeW30n128 => none
  | .isprimeC64 | .isprimeC128 => lookupCheck l p
  | .nextprimeC64 | .nextprimeC128 => scanCheck l p a

theorem runOf_reportsCheck (i : Instr) (s : State) :
    ReportsCheck (checkOfCommand i s.latch (opnd (widthOf i) s.latch.p) (opnd (widthOf i) s.latch.a)
      (opnd (widthOf i) s.latch.b)) (runOf i s).1 := by
  cases i with
  | isprime64 | isprime128 | isprimeW6n64 | isprimeW6n128 | isprimeW30n64 | isprimeW30n128 =>
    exact returnValue_reportsCheck _ _
  | isprimeC64 | isprimeC128 => exact runIsprimeC_reportsCheck _ s
  | nextprimeC64 | nextprimeC128 => exact runNextprimeC_reportsCheck _ s
  | dlogBg64 | dlogBg128 | dlogBgLim64 | dlogBgLim128 => exact checkedRun_reportsCheck (bsgs_reportsCheck _ _ _ _)
  | _ => exact checkedRun_reportsCheck (returnValue_reportsCheck _ _)

theorem errorByte_inj {e e' : ErrorCode} : errorByte e = errorByte e' ↔ e = e' := by
  cases e <;> cases e' <;> decide

/-- A command that starts with ERRCODE 0 ends with the code of a check's error exactly where its check raises it. -/
theorem exec_errcode_iff {i : Instr} {s t : State} {e : ErrorCode} (hzero : s.errcode = 0#8)
    (h : exec i s = .next t) (he : e ∉ runErrors) : t.errcode = errorByte e ↔
      checkOfCommand i s.latch (opnd (widthOf i) s.latch.p) (opnd (widthOf i) s.latch.a)
        (opnd (widthOf i) s.latch.b) = some e := by
  rw [← runOf_reportsCheck i s e he]
  obtain ⟨u, hreads, ⟨r, deg, cap, hend, rfl⟩ | ⟨e', deg, cap, hend, rfl⟩⟩ := exec_cases i s t h
  · have hcode : u.errcode = 0#8 := hreads.errcode.trans hzero
    simp [hend, hcode, (errorByte_ne_zero e).symm]
  · simp [hend, errorByte_inj]

/-- Settles O28: one family of commands at a time, as the lemma on its check says. -/
theorem errorsAreRaisedExactlyWhen : Obligations.ErrorsAreRaisedExactlyWhen := by
  rintro i s t p a b hzero h rfl rfl rfl
  have hillegal : t.errcode = 1#8 ↔ _ := exec_errcode_iff (e := .illegalCommand) hzero h (by decide)
  have hoperand : t.errcode = 2#8 ↔ _ := exec_errcode_iff (e := .invalidOperand) hzero h (by decide)
  have heven : t.errcode = 3#8 ↔ _ := exec_errcode_iff (e := .evenModulus) hzero h (by decide)
  have hrange : t.errcode = 4#8 ↔ _ := exec_errcode_iff (e := .operandRange) hzero h (by decide)
  have hbitset : t.errcode = 5#8 ↔ _ := exec_errcode_iff (e := .bitsetRange) hzero h (by decide)
  dsimp only
  rw [ne_eq, hillegal, hoperand, heven, hrange, hbitset]
  cases i with
  | mulmod64 | mulmod128 | addmod64 | addmod128 => simp [checkOfCommand, mulCheck_eq_some_iff]
  | pow2f64 | pow2f128 | pow2l64 | pow2l128 => simp [checkOfCommand, powCheck_eq_some_iff]
  | pow2b64 | pow2b128 => simp [checkOfCommand, powBackCheck_eq_some_iff]
  | powl64 | powl128 => simp [checkOfCommand, powBaseCheck_eq_some_iff]
  | dlogMn64 | dlogMn128 | dlogPl64 | dlogPl128 | dlogBg64 | dlogBg128 | dlogMnLim64 | dlogMnLim128 | dlogPlLim64
  | dlogPlLim128 | dlogBgLim64 | dlogBgLim128 => simp [checkOfCommand, dlogCheck_eq_some_iff]
  | isprime64 | isprime128 | isprimeW6n64 | isprimeW6n128 | isprimeW30n64 | isprimeW30n128 => simp [checkOfCommand]
  | isprimeC64 | isprimeC128 => simp [checkOfCommand, lookupCheck_eq_some_iff]
  | nextprimeC64 | nextprimeC128 => simp [checkOfCommand, scanCheck_eq_some_iff]

end Sys2Proof.Machine
end

section
/-! THEOREMS. A command looks at its operand latches only through the operand values that R118 gives it, at its width
(30_encoding.md R118, R119). -/

namespace Sys2Proof.Machine

open Sys2Proof.Safety

/-! ### Other values in the operand latches -/

/-- `s` with other values in the latches of P, A and B. -/
def withOperands (x y z : Wide) (s : State) : State := { s with latch := { s.latch with p := x, a := y, b := z } }

@[simp] theorem withOperands_readable (x y z : Wide) (s : State) : (withOperands x y z s).readable = s.readable := rfl
@[simp] theorem withOperands_bytesRead (x y z : Wide) (s : State) : (withOperands x y z s).bytesRead = s.bytesRead := rfl
@[simp] theorem withOperands_p (x y z : Wide) (s : State) : (withOperands x y z s).latch.p = x := rfl
@[simp] theorem withOperands_a (x y z : Wide) (s : State) : (withOperands x y z s).latch.a = y := rfl
@[simp] theorem withOperands_b (x y z : Wide) (s : State) : (withOperands x y z s).latch.b = z := rfl
@[simp] theorem withOperands_budget (x y z : Wide) (s : State) :
    (withOperands x y z s).latch.budget = s.latch.budget := rfl
@[simp] theorem withOperands_stableByte (x y z : Wide) (s : State) (a : Nat) :
    stableByte (withOperands x y z s) a = stableByte s a := rfl
@[simp] theorem withOperands_bitAddress (x y z : Wide) (s : State) (i : Nat) :
    bitAddress (withOperands x y z s).latch i = bitAddress s.latch i := rfl
@[simp] theorem withOperands_bitsetVolatile (x y z : Wide) (s : State) :
    bitsetVolatile (withOperands x y z s) = bitsetVolatile s := rfl
@[simp] theorem withOperands_lookupCheck (x y z : Wide) (s : State) (n : Int) :
    lookupCheck (withOperands x y z s).latch n = lookupCheck s.latch n := rfl
@[simp] theorem withOperands_scanCheck (x y z : Wide) (s : State) (n lim : Int) :
    scanCheck (withOperands x y z s).latch n lim = scanCheck s.latch n lim := rfl

/-- The same answer, from a state with those values in the operand latches. -/
def withOperandsIn {α : Type} (x y z : Wide) (r : α × State) : α × State := (r.1, withOperands x y z r.2)

theorem memRead_withOperands (x y z : Wide) (a : Nat) (s : State) :
    memRead a (withOperands x y z s) = withOperandsIn x y z (memRead a s) := by
  rw [memRead, memRead, withOperands_readable, withOperands_stableByte]
  cases inRanges s.readable a with
  | false => rfl
  | true => cases stableByte s a <;> rfl

theorem nextByte_withOperands (x y z : Wide) (a : Nat) (s : State) :
    nextByte a (withOperands x y z s) = withOperandsIn x y z (nextByte a s) := by
  simp only [nextByte, withOperands_bytesRead]
  split
  · rfl
  · exact memRead_withOperands x y z a s

theorem getBit_withOperands (x y z : Wide) (i : Nat) (s : State) :
    getBit i (withOperands x y z s) = withOperandsIn x y z (getBit i s) := by
  rw [getBit_eq, getBit_eq, withOperands_bitAddress, nextByte_withOperands]
  rfl

theorem scanBits_withOperands (x y z : Wide) (n i : Nat) (s : State) :
    scanBits n i (withOperands x y z s) = withOperandsIn x y z (scanBits n i s) := by
  induction n generalizing i s with
  | zero => rfl
  | succ n ih =>
    unfold scanBits
    rw [getBit_withOperands]
    rcases getBit i s with ⟨_ | b, t⟩
    · rfl
    · dsimp only [withOperandsIn]
      split
      · rfl
      · exact ih (i + 1) t

theorem returnFromBitset_withOperands (x y z : Wide) (w : Width) (r : Nat) (k : Work) (s : State) :
    returnFromBitset w r k (withOperands x y z s) = withOperandsIn x y z (returnFromBitset w r k s) := by
  rw [returnFromBitset, returnFromBitset, withOperands_bitsetVolatile]
  cases bitsetVolatile s <;> rfl

theorem finish_withOperands (x y z : Wide) (w : Width) (r : Run) (s : State) :
    finish w r (withOperands x y z s) = withOperands x y z (finish w r s) := by
  rw [finish_eq, finish_eq]
  split <;> rfl

/-! ### The runs -/

theorem runIsprimeC_withOperands {x : Wide} (y z : Wide) {w : Width} {s : State}
    (hp : opnd w x = opnd w s.latch.p) :
    runIsprimeC w (withOperands x y z s) = withOperandsIn x y z (runIsprimeC w s) := by
  simp only [runIsprimeC, withOperands_p, withOperands_lookupCheck, hp, getBit_withOperands]
  split
  · rfl
  · rcases getBit (opnd w s.latch.p).toNat s with ⟨_ | b, t⟩
    · rfl
    · exact returnFromBitset_withOperands x y z w _ _ t

theorem runNextprimeC_withOperands {x y : Wide} (z : Wide) {w : Width} {s : State}
    (hp : opnd w x = opnd w s.latch.p) (ha : opnd w y = opnd w s.latch.a) :
    runNextprimeC w (withOperands x y z s) = withOperandsIn x y z (runNextprimeC w s) := by
  simp only [runNextprimeC, withOperands_p, withOperands_a, withOperands_scanCheck, hp, ha, scanBits_withOperands]
  split
  · rfl
  · rcases scanBits (opnd w s.latch.a - (opnd w s.latch.p + 1)).toNat ((opnd w s.latch.p).toNat + 1) s with
      ⟨i | _ | _, t⟩
    · exact returnFromBitset_withOperands x y z w _ _ t
    · exact returnFromBitset_withOperands x y z w _ _ t
    · rfl

/-- Every command reads P (R118). -/
theorem p_mem_operandsOf (i : Instr) : .p ∈ operandsOf i := by cases i <;> decide

/-- The latches of P, A and B hold values that command `i` reads as those in `s`: the operands that R118 gives it, at
its width, are the same. -/
structure SameOperands (i : Instr) (s : State) (x y z : Wide) : Prop where
  p : .p ∈ operandsOf i → opnd (widthOf i) x = opnd (widthOf i) s.latch.p
  a : .a ∈ operandsOf i → opnd (widthOf i) y = opnd (widthOf i) s.latch.a
  b : .b ∈ operandsOf i → opnd (widthOf i) z = opnd (widthOf i) s.latch.b

theorem runOf_withOperands {i : Instr} {s : State} {x y z : Wide} (h : SameOperands i s x y z) :
    runOf i (withOperands x y z s) = withOperandsIn x y z (runOf i s) := by
  have hp := h.p (p_mem_operandsOf i)
  cases i with
  | mulmod64 | mulmod128 | addmod64 | addmod128 | powl64 | powl128 =>
    simp only [runOf, runMulmod, runAddmod, runPowl, withOperands_p, withOperands_a, withOperands_b, hp,
      h.a (by decide), h.b (by decide)]
    rfl
  | pow2f64 | pow2f128 | pow2b64 | pow2b128 | pow2l64 | pow2l128 =>
    simp only [runOf, runPow2f, runPow2b, runPow2l, withOperands_p, withOperands_a, hp, h.a (by decide)]
    rfl
  | dlogMn64 | dlogMn128 | dlogPl64 | dlogPl128 | dlogBg64 | dlogBg128 =>
    simp only [runOf, runDlogMn, runDlogPl, runDlogBg, withOperands_p, withOperands_budget, hp]
    rfl
  | dlogMnLim64 | dlogMnLim128 | dlogPlLim64 | dlogPlLim128 | dlogBgLim64 | dlogBgLim128 =>
    simp only [runOf, runDlogMnLim, runDlogPlLim, runDlogBgLim, withOperands_p, withOperands_a, withOperands_budget, hp,
      h.a (by decide)]
    rfl
  | isprime64 | isprime128 | isprimeW6n64 | isprimeW6n128 | isprimeW30n64 | isprimeW30n128 =>
    simp only [runOf, withOperands_p, hp]
    rfl
  | isprimeC64 | isprimeC128 => exact runIsprimeC_withOperands y z hp
  | nextprimeC64 | nextprimeC128 => exact runNextprimeC_withOperands z hp (h.a (by decide))

/-- Equal operands give equal completions; the operand latches keep what they hold. -/
theorem exec_withOperands {i : Instr} {s t : State} {x y z : Wide} (hops : SameOperands i s x y z)
    (h : exec i s = .next t) : exec i (withOperands x y z s) = .next (withOperands x y z t) := by
  rw [exec_eq] at h ⊢
  cases h
  rw [runOf_withOperands hops]
  exact congrArg _ (finish_withOperands x y z _ _ _)

/-- Settles O31: an operand latch that keeps its value keeps its operand. -/
theorem unnamedOperandsAreNotRead : Obligations.UnnamedOperandsAreNotRead := by
  intro i s t x y z h hp ha hb
  exact exec_withOperands
    { p := fun hmem => congrArg (opnd (widthOf i)) (hp hmem)
      a := fun hmem => congrArg (opnd (widthOf i)) (ha hmem)
      b := fun hmem => congrArg (opnd (widthOf i)) (hb hmem) } h

/-- At W = 64 an operand is told by the low half of its latch (R119). -/
theorem opnd_w64_congr {x y : Wide} (h : x.toNat % 2 ^ 64 = y.toNat % 2 ^ 64) : opnd .w64 x = opnd .w64 y := by
  have hint : (x.toNat : Int) % 2 ^ 64 = (y.toNat : Int) % 2 ^ 64 := by exact_mod_cast h
  rw [opnd_w64_eq, opnd_w64_eq, h, hint]

/-- Settles O32: latches with equal low halves hold equal operands at W = 64. -/
theorem upperHalvesAreIgnoredAtWidth64 : Obligations.UpperHalvesAreIgnoredAtWidth64 := by
  intro i s t x y z hw h hp ha hb
  refine exec_withOperands ⟨fun _ => ?_, fun _ => ?_, fun _ => ?_⟩ h <;> rw [hw]
  · exact opnd_w64_congr hp
  · exact opnd_w64_congr ha
  · exact opnd_w64_congr hb

end Sys2Proof.Machine
end

section
/-! THEOREMS. The modular multiplier: its 256-bit datapath is exact, and MULMOD and ADDMOD complete by their rules
(40_widearith.md R140 to R149). -/

namespace Sys2Proof.Machine

open Sys2Proof.Safety

/-! ### The multiplier's datapaths -/

/-- Settles O34: whichever of its products the test selects, it does not overflow. -/
theorem multiplierPath64IsExact : Obligations.MultiplierPath64IsExact :=
  fun _ _ _ _ hp ha hb => mulmodPath64_eq hp ha hb

/-- The partial products and their carries lose nothing, whatever the operands (R145). -/
theorem wideProduct_eq (a b : Nat) : (wideProduct a b).1 * 2 ^ 128 + (wideProduct a b).2 = a * b := by
  have ha := Nat.div_add_mod a (2 ^ 64)
  have hb := Nat.div_add_mod b (2 ^ 64)
  have hsplit : a * b = a / 2 ^ 64 * (b / 2 ^ 64) * 2 ^ 128 +
      (a % 2 ^ 64 * (b / 2 ^ 64) + a / 2 ^ 64 * (b % 2 ^ 64)) * 2 ^ 64 + a % 2 ^ 64 * (b % 2 ^ 64) := by
    conv_lhs => rw [← ha, ← hb]
    ring
  rw [hsplit]
  dsimp only [wideProduct]
  omega

theorem wideProduct_lo_lt (a b : Nat) : (wideProduct a b).2 < 2 ^ 128 := Nat.mod_lt _ (by decide)

/-- The high half of the product of two operands of 127 bits has 126 bits (R145). -/
theorem wideProduct_hi_lt {a b : Nat} (ha : a < 2 ^ 127) (hb : b < 2 ^ 127) : (wideProduct a b).1 < 2 ^ 126 := by
  have hprod : a * b < 2 ^ 127 * 2 ^ 127 := Nat.mul_lt_mul'' ha hb
  have hsum := wideProduct_eq a b
  omega

/-- The doublings carry the high half to its weight, and the final combine is a modular sum (R145, R147). -/
theorem reduceWide_eq {p : Nat} (hp : 0 < p) (hi lo : Nat) : reduceWide p hi lo = (hi * 2 ^ 128 + lo) % p := by
  have hhigh := Nat.mod_lt hi hp
  calc reduceWide p hi lo
      = addmodP p (repeatStep (dbl p) 128 (hi % p)) (lo % p) := rfl
    _ = (2 ^ 128 * (hi % p) % p + lo % p) % p := by
        rw [addmodP_eq_mod p _ _ (repeatStep_lt _ p 128 _ (dbl_lt p) hhigh) (Nat.mod_lt _ hp),
          repeatStep_dbl p 128 _ hhigh]
    _ = (hi * 2 ^ 128 + lo) % p := by rw [Nat.mul_mod_mod, ← Nat.add_mod, Nat.mul_comm]

/-- The datapath as a whole (R146). -/
theorem reduceWide_wideProduct {p : Nat} (hp : 0 < p) (a b : Nat) :
    reduceWide p (wideProduct a b).1 (wideProduct a b).2 = a * b % p := by
  rw [reduceWide_eq hp, wideProduct_eq]

/-- Both paths of the 128-bit multiplier are exact, whatever the operands (R145, R146). -/
theorem mulmodPath128_eq {p : Nat} (hp : 0 < p) (a b : Nat) : mulmodPath128 p a b = a * b % p := by
  by_cases hnative : a * b ≤ 2 ^ 127 - 1
  · exact mulmodPath128_eq_of_native hnative
  · rw [mulmodPath128, if_neg hnative, reduceWide_wideProduct hp]

/-- Settles O35, from the product and its reduction. -/
theorem wideDatapathIsExact : Obligations.WideDatapathIsExact := fun _ a b ha hb hp _ =>
  ⟨wideProduct_eq a b, wideProduct_lo_lt a b, wideProduct_hi_lt ha hb, reduceWide_wideProduct hp a b,
    mulmodPath128_eq hp a b⟩

/-- mulmod_p is exact for the residues of every modulus that a command of its width can have (R148). -/
theorem mulmodP_eq {w : Width} {p a b : Nat} (hp : p < resultLimit w) (ha : a < p) (hb : b < p) :
    mulmodP w p a b = a * b % p := by
  cases w with
  | w64 => exact mulmodPath64_eq hp ha hb
  | w128 => exact mulmodPath128_eq (by omega) a b

/-! ### The completion of a run that reads no memory -/

theorem exec_of_success {i : Instr} {s : State} {x : Run} {r : Nat} {deg cap : Bool} (hrun : runOf i s = (x, s))
    (hend : x.ending = .success r deg cap) : exec i s = .next (afterSuccess (widthOf i) r deg cap s) := by
  rw [exec_eq, hrun, finish_eq, hend]
  cases widthOf i <;> rfl

theorem exec_of_error {i : Instr} {s : State} {x : Run} {e : ErrorCode} {deg cap : Bool} (hrun : runOf i s = (x, s))
    (hend : x.ending = .error e deg cap) : exec i s = .next (afterError (errorByte e) deg cap s) := by
  rw [exec_eq, hrun, finish_eq, hend]
  rfl

/-- A command whose checks refuse its operands completes with their error (R256, R260). -/
theorem exec_of_check_some {i : Instr} {s : State} {c : Option ErrorCode} {x : Run} {e : ErrorCode}
    (hrun : runOf i s = (checkedRun c x, s)) (hc : c = some e) :
    exec i s = .next (afterError (errorByte e) false false s) :=
  exec_of_error hrun (by rw [hc]; rfl)

/-- A command whose checks accept its operands completes as its run ends (R255, R260). -/
theorem exec_of_check_none {i : Instr} {s : State} {c : Option ErrorCode} {x : Run} {r : Nat} {deg cap : Bool}
    (hrun : runOf i s = (checkedRun c x, s)) (hc : c = none) (hend : x.ending = .success r deg cap) :
    exec i s = .next (afterSuccess (widthOf i) r deg cap s) :=
  exec_of_success hrun (by rw [hc]; exact hend)

/-! ### MULMOD and ADDMOD -/

theorem mulCheck_eq_none {p a b : Int} (ha0 : 0 ≤ a) (ha : a < p) (hb0 : 0 ≤ b) (hb : b < p) :
    mulCheck p a b = none := by
  rw [mulCheck, if_neg (by omega), if_neg (by omega)]

/-- A command with the checks of R140 completes with the value `r` of its rule for residues, which its run computes
as `v`, and else with the error of those checks. -/
theorem exec_residues {i : Instr} {s : State} {p a b : Int} {v r : Nat} {k : Work}
    (hrun : runOf i s = (checkedRun (mulCheck p a b) (returnValue v k), s))
    (hvalue : 0 ≤ a → a < p → 0 ≤ b → b < p → v = r) :
    (0 ≤ a → a < p → 0 ≤ b → b < p → exec i s = .next (afterSuccess (widthOf i) r false false s)) ∧
    (p ≤ 0 → exec i s = .next (afterError 2#8 false false s)) ∧
    (0 < p → a < 0 ∨ p ≤ a ∨ b < 0 ∨ p ≤ b → exec i s = .next (afterError 4#8 false false s)) := by
  refine ⟨fun ha0 ha hb0 hb => ?residues, fun hp => ?modulus, fun hp hrange => ?range⟩
  case residues =>
    rw [← hvalue ha0 ha hb0 hb]
    exact exec_of_check_none hrun (mulCheck_eq_none ha0 ha hb0 hb) rfl
  case modulus => exact exec_of_check_some hrun (mulCheck_eq_some_iff.2 (.inl ⟨rfl, hp⟩))
  case range => exact exec_of_check_some hrun (mulCheck_eq_some_iff.2 (.inr ⟨rfl, hp, hrange⟩))

/-- Of two operands that are residues of a third, the multiplier gives the modular product (R142, R144). -/
theorem mulmodP_opnd {w : Width} {x : Wide} {a b : Int} (ha0 : 0 ≤ a) (ha : a < opnd w x) (hb0 : 0 ≤ b)
    (hb : b < opnd w x) : mulmodP w (opnd w x).toNat a.toNat b.toNat = (a * b % opnd w x).toNat := by
  rw [mulmodP_eq (opnd_toNat_lt w x) (by omega) (by omega),
    Int.toNat_emod (Int.mul_nonneg ha0 hb0) (ha0.trans ha.le), Int.toNat_mul ha0 hb0]

/-- The modular sum of two residues, as integers (R147). -/
theorem addmodP_toNat {p a b : Int} (ha0 : 0 ≤ a) (ha : a < p) (hb0 : 0 ≤ b) (hb : b < p) :
    addmodP p.toNat a.toNat b.toNat = ((a + b) % p).toNat := by
  rw [addmodP_eq_mod _ _ _ (by omega) (by omega), Int.toNat_emod (Int.add_nonneg ha0 hb0) (ha0.trans ha.le),
    Int.toNat_add ha0 hb0]

/-- Settles O36: the multiplier is exact on the operands that the checks accept. -/
theorem mulmodFollowsItsRule : Obligations.MulmodFollowsItsRule := by
  refine ⟨rfl, rfl, ?_⟩
  rintro i w s _ _ _ hi rfl rfl rfl
  simp only [List.mem_cons, List.not_mem_nil, Prod.mk.injEq, or_false] at hi
  obtain ⟨rfl, rfl⟩ | ⟨rfl, rfl⟩ := hi <;> exact exec_residues rfl mulmodP_opnd

/-- Settles O37: one subtraction reduces the sum of the residues that the checks accept. -/
theorem addmodFollowsItsRule : Obligations.AddmodFollowsItsRule := by
  refine ⟨rfl, rfl, ?_⟩
  rintro i w s _ _ _ hi rfl rfl rfl
  simp only [List.mem_cons, List.not_mem_nil, Prod.mk.injEq, or_false] at hi
  obtain ⟨rfl, rfl⟩ | ⟨rfl, rfl⟩ := hi <;> exact exec_residues rfl addmodP_toNat

end Sys2Proof.Machine
end

section
/-! THEOREMS. The modular exponentiation engine: each command completes by its rule, and the commands agree
(41_modpow.md R160 to R165). -/

namespace Sys2Proof.Machine

open Sys2Proof.Safety

/-! ### The values of the loops -/

theorem powForward_eq {p : Nat} (hp : 0 < p) (k : Nat) : powForward p k = 2 ^ k % p := babyValue_eq hp k

/-- Square-and-multiply is exact, with as many iterations as the width has bits, for every modulus and exponent that a
command of this width can have (R163, R164). -/
theorem powLog_eq {w : Width} {p k : Nat} (hp0 : 0 < p) (hp : p < resultLimit w) (hk : k < resultLimit w) (b : Nat) :
    powLog w p b k = b ^ k % p := by
  have hbits : k < 2 ^ bitsOf w := hk.trans_le (Nat.pow_le_pow_right (by decide) (Nat.sub_le _ _))
  calc powLog w p b k
      = 1 % p * (b % p) ^ k % p :=
        squareMultiply_eq w p _ _ _ k (fun _ ha _ hb => mulmodP_eq hp ha hb) (Nat.mod_lt _ hp0) (Nat.mod_lt _ hp0) hbits
    _ = b ^ k % p := by rw [Nat.mod_mul_mod, Nat.one_mul, ← Nat.pow_mod]

theorem powLog_opnd {w : Width} {x y : Wide} (hp : 0 < opnd w x) (b : Nat) :
    powLog w (opnd w x).toNat b (opnd w y).toNat = b ^ (opnd w y).toNat % (opnd w x).toNat :=
  powLog_eq (by omega) (opnd_toNat_lt w x) (opnd_toNat_lt w y) b

/-- A power of 2 has at most one inverse among the residues of an odd modulus (R162). -/
theorem inverse_two_pow_unique {p k x v : Nat} (hodd : p % 2 = 1) (hx : x < p) (hv : v < p)
    (hx1 : x * 2 ^ k % p = 1 % p) (hv1 : v * 2 ^ k % p = 1 % p) : x = v := by
  have hcop : Nat.Coprime p (2 ^ k) := (Nat.coprime_two_right.2 (Nat.odd_iff.2 hodd)).pow_right k
  have hmod : x ≡ v [MOD p] := Nat.ModEq.cancel_right_of_coprime hcop (hx1.trans hv1.symm)
  exact hmod.eq_of_lt_of_lt hx hv

/-! ### The checks accept -/

theorem powCheck_eq_none {p k : Int} (hp : 0 < p) (hk : 0 ≤ k) : powCheck p k = none := by
  rw [powCheck, if_neg (by omega), if_neg (by omega)]

theorem powBackCheck_eq_none {p k : Int} (hp : 0 < p) (hodd : p % 2 = 1) (hk : 0 ≤ k) : powBackCheck p k = none := by
  rw [powBackCheck, if_neg (by omega), if_neg (by omega), if_neg (by omega)]

theorem powBaseCheck_eq_none {p k b : Int} (hp : 0 < p) (hk : 0 ≤ k) (hb : 0 ≤ b) : powBaseCheck p k b = none := by
  rw [powBaseCheck, if_neg (by omega), if_neg (by omega), if_neg (by omega)]

/-! ### The commands -/

/-- A statement for both widths of a command names its two words. -/
theorem mem_widths_iff {i j j' : Instr} {w : Width} :
    (i, w) ∈ [(j, Width.w64), (j', Width.w128)] ↔ i = j ∧ w = .w64 ∨ i = j' ∧ w = .w128 := by
  rw [List.mem_pair, Prod.mk.injEq, Prod.mk.injEq]

/-- A command with the checks of POW2F and POW2L completes with the value `r` of its rule, which its run computes as
`v`, and else with the error of those checks (R160). -/
theorem exec_powChecked {i : Instr} {s : State} {p k : Int} {v r : Nat} {x : Work}
    (hrun : runOf i s = (checkedRun (powCheck p k) (returnValue v x), s)) (hvalue : 0 < p → v = r) :
    (0 < p → 0 ≤ k → exec i s = .next (afterSuccess (widthOf i) r false false s)) ∧
    (p ≤ 0 → exec i s = .next (afterError 2#8 false false s)) ∧
    (0 < p → k < 0 → exec i s = .next (afterError 4#8 false false s)) := by
  refine ⟨fun hp hk => ?value, fun hp => ?modulus, fun hp hk => ?range⟩
  case value =>
    rw [← hvalue hp]
    exact exec_of_check_none hrun (powCheck_eq_none hp hk) rfl
  case modulus => exact exec_of_check_some hrun (powCheck_eq_some_iff.2 (.inl ⟨rfl, hp⟩))
  case range => exact exec_of_check_some hrun (powCheck_eq_some_iff.2 (.inr ⟨rfl, hp, hk⟩))

/-- Settles O38: each doubling is exact. -/
theorem pow2fFollowsItsRule : Obligations.Pow2fFollowsItsRule := by
  refine ⟨rfl, rfl, ?_⟩
  rintro i w s _ _ hi rfl rfl
  obtain ⟨rfl, rfl⟩ | ⟨rfl, rfl⟩ := mem_widths_iff.1 hi <;>
    exact exec_powChecked rfl fun hp => powForward_eq (Int.lt_toNat.2 hp) _

/-- Settles O40: square-and-multiply is exact with base 2. -/
theorem pow2lFollowsItsRule : Obligations.Pow2lFollowsItsRule := by
  refine ⟨rfl, rfl, ?_⟩
  rintro i w s _ _ hi rfl rfl
  obtain ⟨rfl, rfl⟩ | ⟨rfl, rfl⟩ := mem_widths_iff.1 hi <;>
    exact exec_powChecked rfl fun hp => powLog_opnd hp 2

/-- POW2B at either width: the halvings give the inverse of 2^k, and the checks refuse as R160 says. -/
theorem exec_powBackward {i : Instr} {s : State} {p k : Int} {x : Work}
    (hrun : runOf i s = (checkedRun (powBackCheck p k) (returnValue (powBackward p.toNat k.toNat) x), s)) :
    (0 < p → p % 2 = 1 → 0 ≤ k → ∃ v < p.toNat, v * 2 ^ k.toNat % p.toNat = 1 % p.toNat ∧
      exec i s = .next (afterSuccess (widthOf i) v false false s)) ∧
    (p ≤ 0 → exec i s = .next (afterError 2#8 false false s)) ∧
    (0 < p → p % 2 = 0 → exec i s = .next (afterError 3#8 false false s)) ∧
    (0 < p → p % 2 = 1 → k < 0 → exec i s = .next (afterError 4#8 false false s)) := by
  refine ⟨fun hp hodd hk => ?value, fun hp => ?modulus, fun hp heven => ?even, fun hp hodd hk => ?range⟩
  case value =>
    exact ⟨powBackward p.toNat k.toNat, powBackward_lt (by omega) _, powBackward_mul (by omega) _,
      exec_of_check_none hrun (powBackCheck_eq_none hp hodd hk) rfl⟩
  case modulus => exact exec_of_check_some hrun (powBackCheck_eq_some_iff.2 (.inl ⟨rfl, hp⟩))
  case even => exact exec_of_check_some hrun (powBackCheck_eq_some_iff.2 (.inr (.inl ⟨rfl, hp, heven⟩)))
  case range => exact exec_of_check_some hrun (powBackCheck_eq_some_iff.2 (.inr (.inr ⟨rfl, hp, hodd, hk⟩)))

/-- Settles O39: k halvings undo k doublings. -/
theorem pow2bFollowsItsRule : Obligations.Pow2bFollowsItsRule := by
  refine ⟨rfl, rfl, ?_⟩
  rintro i w s _ _ hi rfl rfl
  obtain ⟨rfl, rfl⟩ | ⟨rfl, rfl⟩ := mem_widths_iff.1 hi <;>
    exact exec_powBackward rfl

/-- A command with the checks of POWL completes with the value `r` of its rule, which its run computes as `v`, and else
with the error of those checks (R160). -/
theorem exec_powBaseChecked {i : Instr} {s : State} {p k b : Int} {v r : Nat} {x : Work}
    (hrun : runOf i s = (checkedRun (powBaseCheck p k b) (returnValue v x), s)) (hvalue : 0 < p → v = r) :
    (0 < p → 0 ≤ k → 0 ≤ b → exec i s = .next (afterSuccess (widthOf i) r false false s)) ∧
    (p ≤ 0 → exec i s = .next (afterError 2#8 false false s)) ∧
    (0 < p → k < 0 ∨ b < 0 → exec i s = .next (afterError 4#8 false false s)) := by
  refine ⟨fun hp hk hb => ?value, fun hp => ?modulus, fun hp hneg => ?range⟩
  case value =>
    rw [← hvalue hp]
    exact exec_of_check_none hrun (powBaseCheck_eq_none hp hk hb) rfl
  case modulus => exact exec_of_check_some hrun (powBaseCheck_eq_some_iff.2 (.inl ⟨rfl, hp⟩))
  case range => exact exec_of_check_some hrun (powBaseCheck_eq_some_iff.2 (.inr ⟨rfl, hp, hneg⟩))

/-- Settles O41: square-and-multiply is exact with every base. -/
theorem powlFollowsItsRule : Obligations.PowlFollowsItsRule := by
  refine ⟨rfl, rfl, ?_⟩
  rintro i w s _ _ _ hi rfl rfl rfl
  obtain ⟨rfl, rfl⟩ | ⟨rfl, rfl⟩ := mem_widths_iff.1 hi <;>
    exact exec_powBaseChecked rfl fun hp => powLog_opnd hp _

/-! ### Agreement -/

/-- Settles O42 from the rules of the four commands: the rules name one value for both widths, and the inverses that
POW2B gives at the two widths are equal because there is only one. -/
theorem exponentiationsAgree : Obligations.ExponentiationsAgree := by
  intro s u p k b hp hsp hsk hsb hup huk hub
  obtain ⟨_, _, pow2f⟩ := pow2fFollowsItsRule
  obtain ⟨_, _, pow2b⟩ := pow2bFollowsItsRule
  obtain ⟨_, _, pow2l⟩ := pow2lFollowsItsRule
  obtain ⟨_, _, powl⟩ := powlFollowsItsRule
  obtain ⟨hf64, _⟩ := pow2f .pow2f64 .w64 s p k (by simp) hsp hsk
  obtain ⟨hf128, _⟩ := pow2f .pow2f128 .w128 u p k (by simp) hup huk
  obtain ⟨hl64, _⟩ := pow2l .pow2l64 .w64 s p k (by simp) hsp hsk
  obtain ⟨hl128, _⟩ := pow2l .pow2l128 .w128 u p k (by simp) hup huk
  obtain ⟨hg64, _⟩ := powl .powl64 .w64 s p k b (by simp) hsp hsk hsb
  obtain ⟨hg128, _⟩ := powl .powl128 .w128 u p k b (by simp) hup huk hub
  obtain ⟨hv64, _⟩ := pow2b .pow2b64 .w64 s p k (by simp) hsp hsk
  obtain ⟨hv128, _⟩ := pow2b .pow2b128 .w128 u p k (by simp) hup huk
  simp only [Int.toNat_natCast] at hf64 hf128 hl64 hl128 hg64 hg128 hv64 hv128
  have hp' : (0 : Int) < p := by omega
  have hk' : (0 : Int) ≤ k := by omega
  have hb' : (0 : Int) ≤ b := by omega
  refine ⟨2 ^ k % p, 2 ^ k % p, b ^ k % p, rfl, rfl, fun hb => by rw [hb], hf64 hp' hk', hf128 hp' hk', hl64 hp' hk',
    hl128 hp' hk', hg64 hp' hk' hb', hg128 hp' hk' hb', fun hodd => ?_⟩
  obtain ⟨v, hv, hv1, hexec64⟩ := hv64 hp' (by omega) hk'
  obtain ⟨x, hx, hx1, hexec128⟩ := hv128 hp' (by omega) hk'
  obtain rfl := inverse_two_pow_unique hodd hx hv hx1 hv1
  exact ⟨x, hx, hx1, fun y hy hy1 => inverse_two_pow_unique hodd hy hx hy1 hx1, by rwa [Nat.mul_mod_mod], hexec64,
    hexec128⟩

end Sys2Proof.Machine
end

section
/-! THEOREMS. EXHAUSTED is reached by no event from a state of the invariant (42_dlog.md R198, 60_exceptions.md R259). -/

namespace Sys2Proof.Machine

open Sys2Proof.Safety

theorem completeRun_errcode_ne_seven {s : State} (hb : 32 ≤ s.latch.budget.toNat) (h : s.errcode ≠ 7#8) :
    (completeRun s).errcode ≠ 7#8 := by
  cases hi : decode s.latch.cmd with
  | ok i => exact exhaustedIsUnreachable i s _ hb h (exec_eq_completeRun hi)
  | error e =>
    rw [completeRun_of_refused hi]
    exact errorByte_ne_seven (e := .illegalCommand) (by decide)

/-- A register write leaves ERRCODE as it was, except that an issue clears it (R41, R48). -/
theorem writeReg_errcode (r : Reg) (v : Word) (s : State) :
    (writeReg r v s).errcode = s.errcode ∨ (writeReg r v s).errcode = 0#8 := by
  cases r with
  | cmd =>
    cases hb : s.status.busy with
    | true => exact .inl (by rw [writeReg, issue_of_busy v hb])
    | false => exact .inr (by rw [writeReg, issue_of_idle v hb]; rfl)
  | _ => exact .inl rfl

theorem hostWrite_errcode (n : Nat) (o : Offset) (v : Word) (s : State) :
    (hostWrite n o v s).errcode = s.errcode ∨ (hostWrite n o v s).errcode = 0#8 := by
  unfold hostWrite windowWrite
  split
  · split
    · exact writeReg_errcode _ v s
    · exact .inl rfl
  · exact .inl rfl

/-- Of all events only a completion can report an error, and with the legal budget that the invariant gives a running
command it does not report EXHAUSTED. -/
theorem afterEvent_errcode_ne_seven (e : Event) {s : State} (hinv : Inv s) (h : s.errcode ≠ 7#8) :
    (afterEvent e s).errcode ≠ 7#8 := by
  cases e with
  | hostRead n o => dsimp only [afterEvent, hostRead]; split <;> exact h
  | hostWrite n o v =>
    obtain hsame | hzero := hostWrite_errcode n o v s
    · exact fun hw => h (hsame.symm.trans hw)
    · exact fun hw => absurd (hzero.symm.trans hw) (by decide)
  | memStore a b => exact h
  | blockRead =>
    dsimp only [afterEvent]
    split
    · rwa [(readAhead_readsOnly s).errcode]
    · exact h
  | completion =>
    dsimp only [afterEvent]
    split
    · rename_i hbusy
      obtain ⟨hlow, _⟩ := hinv.latched hbusy
      exact completeRun_errcode_ne_seven hlow h
    · exact h
  | reset => rw [afterEvent, resetBlock_errcode]; decide

/-- Settles O54: a step is one event, taken from the list of those to come. -/
theorem noStepReportsExhausted : Obligations.NoStepReportsExhausted := by
  intro s t hinv h hstep
  obtain ⟨_, rfl⟩ | ⟨e, rest, _, rfl⟩ := step_cases hstep
  · exact afterEvent_errcode_ne_seven .completion hinv h
  · exact afterEvent_errcode_ne_seven e (inv_inputs rest hinv) h

end Sys2Proof.Machine
end

section
/-! THEOREMS. Linear stepping finds the order of 2 (42_dlog.md R180 to R186). -/

namespace Sys2Proof.Machine

open Sys2Proof.Safety

/-! ### The order exists -/

/-- Among the powers of 2 that are 1 modulo an odd p is that with exponent φ(p) (R181). -/
theorem two_pow_totient {p : Nat} (hodd : p % 2 = 1) : 1 ≤ p.totient ∧ 2 ^ p.totient % p = 1 % p :=
  ⟨Nat.totient_pos.2 (by omega), Nat.ModEq.pow_totient (Nat.coprime_two_left.2 (Nat.odd_iff.2 hodd))⟩

theorem exists_isOrder {p : Nat} (hodd : p % 2 = 1) : ∃ t, IsOrder p t :=
  ⟨_, isLeast_csInf ⟨p.totient, two_pow_totient hodd⟩⟩

/-- The order of 2 is within the steps that the unbounded loop may make (R181). -/
theorem isOrder_le_orderBound {p t : Nat} (hodd : p % 2 = 1) (h : IsOrder p t) : t ≤ orderBound p := by
  have hle : t ≤ p.totient := h.2 (two_pow_totient hodd)
  have hbelow : p ≤ 1 ∨ p.totient < p := (Nat.lt_or_ge 1 p).symm.imp_right (Nat.totient_lt p)
  have htotient := Nat.totient_le p
  unfold orderBound
  omega

/-! ### Loops that come back to 1 with the order -/

/-- `f` applied to 1 mod p gives 1 mod p after as many steps as 2 has powers that do. -/
def ReturnsWithPowers (f : Nat → Nat) (p : Nat) : Prop :=
  ∀ k, repeatStep f k (1 % p) = 1 % p ↔ 2 ^ k % p = 1 % p

/-- The doublings of DLOG_PL are the powers of 2 (R184). -/
theorem dbl_returnsWithPowers {p : Nat} (hodd : p % 2 = 1) : ReturnsWithPowers (dbl p) p := fun k => by
  rw [babyValue_eq (by omega)]

/-- "2^(−s) ≡ 1 exactly when 2^s ≡ 1" (R183): both are inverses of 2^s, of which there is one. -/
theorem hlv_returnsWithPowers {p : Nat} (hodd : p % 2 = 1) : ReturnsWithPowers (hlv p) p := fun k => by
  have hinv : powBackward p k * 2 ^ k % p = 1 % p := powBackward_mul hodd k
  change powBackward p k = 1 % p ↔ _
  refine ⟨fun hone => ?_, fun hone => ?_⟩
  · rwa [hone, Nat.mod_mul_mod, Nat.one_mul] at hinv
  · refine inverse_two_pow_unique hodd (powBackward_lt (by omega) k) (Nat.mod_lt _ (by omega)) hinv ?_
    rwa [Nat.mod_mul_mod, Nat.one_mul]

/-- The first step that gives 1 is the order of 2 (R181). -/
theorem ReturnsWithPowers.isOrder_of_first {f : Nat → Nat} {p k : Nat} (hf : ReturnsWithPowers f p)
    (hone : repeatStep f (k + 1) (1 % p) = 1 % p) (hmin : ∀ j < k, repeatStep f (j + 1) (1 % p) ≠ 1 % p) :
    IsOrder p (k + 1) := by
  refine ⟨⟨Nat.succ_pos k, (hf _).1 hone⟩, fun x hx => ?_⟩
  obtain ⟨hx1, hxone⟩ : 1 ≤ x ∧ 2 ^ x % p = 1 % p := hx
  by_contra hlt
  refine hmin (x - 1) (by omega) ((hf _).2 ?_)
  rwa [Nat.sub_add_cancel hx1]

/-- A loop whose first `n` steps do not give 1 has not reached the order of 2. -/
theorem ReturnsWithPowers.lt_of_none {f : Nat → Nat} {p n t : Nat} (hf : ReturnsWithPowers f p) (ht : IsOrder p t)
    (hnone : ∀ j < n, repeatStep f (j + 1) (1 % p) ≠ 1 % p) : n < t := by
  obtain ⟨ht1, htone⟩ : 1 ≤ t ∧ 2 ^ t % p = 1 % p := ht.1
  by_contra hle
  refine hnone (t - 1) (by omega) ((hf _).2 ?_)
  rwa [Nat.sub_add_cancel ht1]

/-- The unbounded loop ends at the order of 2 (R183, R184). -/
theorem linearOrder_eq {f : Nat → Nat} {p t : Nat} (hodd : p % 2 = 1) (hf : ReturnsWithPowers f p)
    (ht : IsOrder p t) : linearOrder f p = t := by
  obtain ⟨k, _, hone, hmin, he⟩ | ⟨hnone, _⟩ := stepUntil_cases f (1 % p) (orderBound p) 0 (1 % p)
  · rw [linearOrder, he, Nat.zero_add]
    exact (hf.isOrder_of_first hone hmin).unique ht
  · exact absurd (hf.lt_of_none ht hnone) (isOrder_le_orderBound hodd ht).not_gt

/-- The bounded loop ends at the order of 2 where that is below the limit, and else runs out (R185, R186). -/
theorem linearWithin_eq {f : Nat → Nat} {p t : Nat} (hf : ReturnsWithPowers f p) (ht : IsOrder p t) (lim : Int) :
    linearWithin f p lim = candidateResult (some lim) t := by
  obtain ⟨k, hk, hone, hmin, he⟩ | ⟨hnone, he⟩ := stepWithin_cases f (1 % p) (lim - 1).toNat 1 (1 % p) <;>
    rw [linearWithin, he, candidateResult]
  · obtain rfl := (hf.isOrder_of_first hone hmin).unique ht
    rw [if_pos (by omega), Nat.add_comm]
  · have hlate := hf.lt_of_none ht hnone
    rw [if_neg (by omega)]

/-! ### The commands -/

theorem dlogCheck_eq_none {p : Int} (hp : 0 < p) (hodd : p % 2 = 1) : dlogCheck p = none := by
  rw [dlogCheck, if_neg (by omega), if_neg (by omega)]

/-- A command with the checks of R180 completes with their error for the moduli that they refuse. -/
theorem exec_dlogRefused {i : Instr} {s : State} {p : Int} {x : Run}
    (hrun : runOf i s = (checkedRun (dlogCheck p) x, s)) :
    (p ≤ 0 → exec i s = .next (afterError 2#8 false false s)) ∧
    (0 < p → p % 2 = 0 → exec i s = .next (afterError 3#8 false false s)) := by
  refine ⟨fun hp => ?modulus, fun hp heven => ?even⟩
  case modulus => exact exec_of_check_some hrun (dlogCheck_eq_some_iff.2 (.inl ⟨rfl, hp⟩))
  case even => exact exec_of_check_some hrun (dlogCheck_eq_some_iff.2 (.inr ⟨rfl, hp, heven⟩))

/-- A command whose run computes, for an odd modulus, the order of 2 as its limit lets it through, completes with that,
and else with the error of R180. -/
theorem exec_linear {i : Instr} {s : State} {p : Int} {v : Nat} {bound : Option Int} {x : Work}
    (hrun : runOf i s = (checkedRun (dlogCheck p) (returnValue v x), s))
    (hvalue : ∀ t, p.toNat % 2 = 1 → IsOrder p.toNat t → v = candidateResult bound t) :
    (0 < p → p % 2 = 1 → ∃ t, IsOrder p.toNat t ∧
      exec i s = .next (afterSuccess (widthOf i) (candidateResult bound t) false false s)) ∧
    (p ≤ 0 → exec i s = .next (afterError 2#8 false false s)) ∧
    (0 < p → p % 2 = 0 → exec i s = .next (afterError 3#8 false false s)) := by
  refine ⟨fun hp hodd => ?_, exec_dlogRefused hrun⟩
  have hodd' : p.toNat % 2 = 1 := by omega
  obtain ⟨t, ht⟩ := exists_isOrder hodd'
  refine ⟨t, ht, ?_⟩
  rw [← hvalue t hodd' ht]
  exact exec_of_check_none hrun (dlogCheck_eq_none hp hodd) rfl

/-- A statement for both widths of two commands names their four words. -/
theorem mem_widths_iff_of_two {i j j' k k' : Instr} {w : Width} :
    (i, w) ∈ [(j, Width.w64), (j', Width.w128), (k, Width.w64), (k', Width.w128)] ↔
      (i = j ∧ w = .w64 ∨ i = j' ∧ w = .w128) ∨ (i = k ∧ w = .w64 ∨ i = k' ∧ w = .w128) := by
  simp only [List.mem_cons, List.not_mem_nil, Prod.mk.injEq, or_false, or_assoc]

/-- Settles O43: halvings and doublings both come back to 1 with the powers of 2. -/
theorem linearDlogFindsTheOrder : Obligations.LinearDlogFindsTheOrder := by
  refine ⟨rfl, rfl, rfl, rfl, ?_⟩
  rintro i w s _ hi rfl
  obtain (⟨rfl, rfl⟩ | ⟨rfl, rfl⟩) | (⟨rfl, rfl⟩ | ⟨rfl, rfl⟩) := mem_widths_iff_of_two.1 hi
  case inl.inl | inl.inr =>
    exact exec_linear (bound := none) rfl fun _ hodd ht => linearOrder_eq hodd (hlv_returnsWithPowers hodd) ht
  case inr.inl | inr.inr =>
    exact exec_linear (bound := none) rfl fun _ hodd ht => linearOrder_eq hodd (dbl_returnsWithPowers hodd) ht

/-- Settles O44: the bounded loops let the order of 2 through where it is below the limit. -/
theorem boundedLinearDlogObeysTheLimit : Obligations.BoundedLinearDlogObeysTheLimit := by
  refine ⟨rfl, rfl, rfl, rfl, ?_⟩
  rintro i w s _ _ hi rfl rfl
  obtain (⟨rfl, rfl⟩ | ⟨rfl, rfl⟩) | (⟨rfl, rfl⟩ | ⟨rfl, rfl⟩) := mem_widths_iff_of_two.1 hi
  case inl.inl | inl.inr =>
    exact exec_linear (bound := some _) rfl fun _ hodd ht => linearWithin_eq (hlv_returnsWithPowers hodd) ht _
  case inr.inl | inr.inr =>
    exact exec_linear (bound := some _) rfl fun _ hodd ht => linearWithin_eq (dbl_returnsWithPowers hodd) ht _

end Sys2Proof.Machine
end

section
/-! THEOREMS. Baby-step-giant-step finds the order of 2 and reports CAPPED and DEGRADED by its rule, bounded or not
(42_dlog.md R190 to R198). -/

namespace Sys2Proof.Machine

open Sys2Proof.Safety

/-! ### The giant steps -/

/-- A limit that a giant step has reached lets no later candidate through (R195, R197). -/
theorem candidateResult_of_reachedLimit {bound : Option Int} {x t : Nat} (h : reachedLimit bound x = true)
    (hle : x ≤ t) : candidateResult bound t = 0 := by
  cases bound with
  | none => cases h
  | some lim =>
    have hlim : lim ≤ x := of_decide_eq_true h
    exact if_neg (by omega)

section
variable {w : Width} {p am m t : Nat} {table : List TableEntry}

/-- Giant steps that have all missed have not come as far as step t div m, which meets the baby step at t mod m (R193,
R195). -/
theorem lt_div_of_giantMiss {bound : Option Int} {k : Nat} (hp : 0 < p) (hmul : ∀ y < p, mulmodP w p y am = y * am % p)
    (ham : am * 2 ^ m ≡ 1 [MOD p]) (htable : ∀ j < m, ⟨2 ^ j % p, j⟩ ∈ table) (hm : 1 ≤ m) (hlong : m ≤ t)
    (ht : 2 ^ t ≡ 1 [MOD p]) (hmiss : ∀ x < k, giantMiss w p am m bound table 1 (1 % p) x) : k < t / m := by
  by_contra hfar
  have hdiv : 0 < t / m := Nat.div_pos hlong hm
  obtain ⟨_, hnone⟩ := hmiss (t / m - 1) (by omega)
  rw [Nat.sub_add_cancel hdiv, giantValue_eq hp hmul, inverse_pow_div_modEq ham ht] at hnone
  exact tableIndex_none table _ hnone _ (htable (t % m) (Nat.mod_lt _ hm)) rfl

/-- After baby steps without a hit, the giant steps hit at the order of 2, or stop at a limit that is not above it
(R195, R198). -/
theorem giantSteps_ends_at_order (bound : Option Int) (hodd : p % 2 = 1)
    (hmul : ∀ y < p, mulmodP w p y am = y * am % p) (ham : am * 2 ^ m ≡ 1 [MOD p])
    (htable : ∀ e, e ∈ table ↔ ∃ k < m, e = ⟨2 ^ k % p, k⟩) (hm : 1 ≤ m) (hmiss : ∀ k < m, 2 ^ (k + 1) % p ≠ 1 % p)
    (ht : IsOrder p t) (hlong : m < t) :
    (∃ i j y, giantSteps w p am m bound table (ceildiv p m) 1 (1 % p) = .hit i j y ∧ i * m + j = t) ∨
    (giantSteps w p am m bound table (ceildiv p m) 1 (1 % p) = .stopped ∧ candidateResult bound t = 0) := by
  have hp : 0 < p := by omega
  have hentry : ∀ j < m, ⟨2 ^ j % p, j⟩ ∈ table := fun j hj => (htable _).2 ⟨j, hj, rfl⟩
  obtain ⟨_, htone⟩ : 1 ≤ t ∧ 2 ^ t ≡ 1 [MOD p] := ht.1
  rcases giantSteps_cases w p am m bound table (ceildiv p m) 1 (1 % p) with
    ⟨_, _, _, _, _, _, hhit⟩ | ⟨k, _, hmissed, hreached, hstop⟩ | ⟨hmissed, _⟩
  · exact .inl ⟨_, _, _, hhit, (giantSteps_hit_isOrder hp hmul ham hmiss htable hhit).unique ht⟩
  · have hbefore : k < t / m := lt_div_of_giantMiss hp hmul ham hentry hm hlong.le htone hmissed
    refine .inr ⟨hstop, candidateResult_of_reachedLimit hreached ?_⟩
    exact (Nat.mul_le_mul_right m (by omega)).trans (Nat.div_mul_le_self t m)
  · have hbeyond : ceildiv p m < t / m := lt_div_of_giantMiss hp hmul ham hentry hm hlong.le htone hmissed
    have hwithin : t / m ≤ ceildiv p m := Nat.div_le_of_le_mul
      ((isOrder_le hodd ht).trans ((le_ceildiv_mul p m hm).trans_eq (Nat.mul_comm _ _)))
    exact absurd hbeyond hwithin.not_gt

/-- The fallback lets the order of 2 through as the giant steps do (R194, R196, R197). -/
theorem fallbackResult_eq (bound : Option Int) (hodd : p % 2 = 1) (ht : IsOrder p t) :
    fallbackResult p bound = candidateResult bound t := by
  cases bound with
  | none => exact linearOrder_eq hodd (hlv_returnsWithPowers hodd) ht
  | some lim => exact linearWithin_eq (hlv_returnsWithPowers hodd) ht lim

/-! ### The procedure -/

/-- After baby steps without a hit the procedure ends with the order of 2 by either path, and reports the overflow
check as DEGRADED (R193 to R197). -/
theorem giantPhase_ending (cap : Bool) (bound : Option Int) (hodd : p % 2 = 1) (hp : p < resultLimit w)
    (htable : ∀ e, e ∈ table ↔ ∃ k < m, e = ⟨2 ^ k % p, k⟩) (hm : 1 ≤ m) (hmiss : ∀ k < m, 2 ^ (k + 1) % p ≠ 1 % p)
    (ht : IsOrder p t) (hlong : m < t) : (giantPhase w p m cap bound table).ending =
      .success (candidateResult bound t) (overflows w p (powBackward p m)) cap := by
  unfold giantPhase
  dsimp only
  split
  case isTrue => rw [fallbackResult_eq bound hodd ht]
  case isFalse hdeg =>
    have hmul : ∀ y < p, mulmodP w p y (powBackward p m) = y * powBackward p m % p :=
      fun y hy => mulmodP_eq hp hy (powBackward_lt (by omega) m)
    obtain ⟨i, j, y, hhit, rfl⟩ | ⟨hstop, hzero⟩ :=
      giantSteps_ends_at_order bound hodd hmul (powBackward_mul hodd m) htable hm hmiss ht hlong
    · rw [hhit]
    · rw [hstop, hzero]

/-- The procedure ends with the order of 2 as its limit lets it through; DEGRADED needs baby steps without a hit
(R192, R194 to R198). -/
theorem bsgs_ending {budget : Nat} (bound : Option Int) (hodd : p % 2 = 1) (hp : p < resultLimit w)
    (hb : 32 ≤ budget) (ht : IsOrder p t) : (bsgs w p budget bound).ending =
      .success (candidateResult bound t)
        (decide (stepSize w p budget < t ∧ nativeMax w < powBackward p (stepSize w p budget) * (p - 1)))
        (decide (allowedStep w budget < wantedStep p)) := by
  have hp0 : 0 < p := by omega
  have hm : 1 ≤ stepSize w p budget :=
    stepSize_pos w hp0 (hp.trans_le (Nat.pow_le_pow_right (by decide) (by cases w <;> decide))) hb
  unfold bsgs
  dsimp only
  split
  case h_1 x table hbaby =>
    obtain ⟨horder, hshort⟩ := babySteps_hit_isOrder hp0 (congrArg Prod.fst hbaby)
    obtain rfl := horder.unique ht
    rw [decide_eq_false fun hdeg => hdeg.1.not_ge hshort]
    rfl
  case h_2 table hbaby =>
    obtain ⟨_, _, _, _, hsome⟩ | ⟨hnone, _, hmem⟩ := babySteps_cases p (stepSize w p budget) 0 (1 % p) []
    · rw [hbaby] at hsome
      cases hsome
    · have hlong : stepSize w p budget < t := (dbl_returnsWithPowers hodd).lt_of_none ht hnone
      simp only [hbaby, babyValue_eq hp0, List.not_mem_nil, false_or, Nat.zero_add] at hnone hmem
      rw [giantPhase_ending _ bound hodd hp hmem hm hnone ht hlong]
      simp only [hlong, true_and]
      rfl

end

/-! ### The commands -/

/-- The ceiling of the square root of a modulus that is a command's operand (R191). -/
theorem csqrt_opnd_isLeast {w : Width} {x : Wide} (hp : 0 < opnd w x) :
    IsLeast (fun c : Nat => opnd w x ≤ c * c) (csqrt (opnd w x).toNat) := by
  have hlt : (opnd w x).toNat < 2 ^ 128 :=
    (opnd_toNat_lt w x).trans_le (Nat.pow_le_pow_right (by decide) (by cases w <;> decide))
  have hle : (fun c : Nat => opnd w x ≤ c * c) = fun c => (opnd w x).toNat ≤ c * c := by
    funext c
    rw [Int.toNat_le, Nat.cast_mul]
  rw [hle]
  exact csqrt_isLeast _ hlt

/-- A command that runs the BSGS procedure behind the checks of R180 completes with the order of 2 as its limit lets it
through, with the step size and the flags of R191 to R194, and else with the error of those checks. -/
theorem exec_bsgs {i : Instr} {w : Width} {s : State} {p : Int} {budget : Nat} {bound : Option Int}
    (hw : widthOf i = w) (hrun : runOf i s = (checkedRun (dlogCheck p) (bsgs w p.toNat budget bound), s))
    (hopnd : opnd w s.latch.p = p) :
    (0 < p → p % 2 = 1 → 32 ≤ budget →
      ∃ c m0 m am t, IsLeast (fun x : Nat => p ≤ x * x) c ∧ IsLeast (fun q : Nat => c ≤ q * 3) m0 ∧
        m = min m0 (budget / entryBytes w) ∧
        am < p.toNat ∧ am * 2 ^ m % p.toNat = 1 % p.toNat ∧ IsOrder p.toNat t ∧
        exec i s = .next (afterSuccess w (candidateResult bound t)
          (decide (m < t ∧ nativeMax w < am * (p.toNat - 1))) (decide (budget / entryBytes w < m0)) s)) ∧
    (p ≤ 0 → exec i s = .next (afterError 2#8 false false s)) ∧
    (0 < p → p % 2 = 0 → exec i s = .next (afterError 3#8 false false s)) := by
  subst hw hopnd
  refine ⟨fun hp hodd hb => ?_, exec_dlogRefused hrun⟩
  have hodd' : (opnd (widthOf i) s.latch.p).toNat % 2 = 1 := by omega
  obtain ⟨t, ht⟩ := exists_isOrder hodd'
  exact ⟨_, wantedStep _, stepSize _ _ budget, powBackward _ _, t, csqrt_opnd_isLeast hp,
    ceildiv_isLeast _ 3 (by decide), rfl, powBackward_lt (by omega) _, powBackward_mul hodd' _, ht,
    exec_of_check_none hrun (dlogCheck_eq_none hp hodd) (bsgs_ending bound hodd' (opnd_toNat_lt _ _) hb ht)⟩

/-- A statement for both widths of a BSGS command names its two words, with the bytes of a table entry and the largest
native value of each (R191, R194). -/
theorem bsgsWidths_of_mem {i j j' : Instr} {w : Width} {entry native : Nat}
    (h : (i, w, entry, native) ∈ [(j, Width.w64, 16, 2 ^ 63 - 1), (j', Width.w128, 32, 2 ^ 127 - 1)]) :
    (i = j ∧ w = .w64 ∨ i = j' ∧ w = .w128) ∧ entry = entryBytes w ∧ native = nativeMax w := by
  simp only [List.mem_pair, Prod.mk.injEq] at h
  obtain ⟨rfl, rfl, rfl, rfl⟩ | ⟨rfl, rfl, rfl, rfl⟩ := h
  · exact ⟨.inl ⟨rfl, rfl⟩, rfl, rfl⟩
  · exact ⟨.inr ⟨rfl, rfl⟩, rfl, rfl⟩

/-- Settles O45: without a limit every candidate is let through. -/
theorem bsgsFindsTheOrder : Obligations.BsgsFindsTheOrder := by
  refine ⟨rfl, rfl, ?_⟩
  rintro i w entry native s _ hi rfl
  obtain ⟨⟨rfl, rfl⟩ | ⟨rfl, rfl⟩, rfl, rfl⟩ := bsgsWidths_of_mem hi <;> exact exec_bsgs (bound := none) rfl rfl rfl

/-- Settles O46: the limit is the operand a, and the flags do not depend on it. -/
theorem boundedBsgsObeysTheLimit : Obligations.BoundedBsgsObeysTheLimit := by
  refine ⟨rfl, rfl, ?_⟩
  rintro i w entry native s _ _ hi rfl rfl
  obtain ⟨⟨rfl, rfl⟩ | ⟨rfl, rfl⟩, rfl, rfl⟩ := bsgsWidths_of_mem hi <;> exact exec_bsgs (bound := some _) rfl rfl rfl

end Sys2Proof.Machine
end

section
/-! THEOREMS. The primality tester: trial division decides primality, and the cached commands answer from the bits that
memory holds (43_primality.md R220 to R227). -/

namespace Sys2Proof.Machine

open Sys2Proof.Safety

/-! ### Trial division -/

/-- A scan in which no prime past the small ones is missed decides primality of a number that no small prime divides:
the least factor of a composite number is at most its square root. -/
theorem noDivisor_iff_prime {candidate : Nat → Bool} {stride d n : Nat} (hn : 2 ≤ n) (hlt : n < 2 ^ 128) (hd : 2 ≤ d)
    (hstride : 0 < stride)
    (hreach : ∀ q, q.Prime → q ∣ n → ∃ j, d + j * stride = q ∧ candidate q = true) :
    noDivisor candidate stride n (isqrt n) (isqrt n) d = true ↔ n.Prime := by
  rw [noDivisor_iff, isqrt_eq_sqrt n hlt]
  refine ⟨fun hnone => ?_, fun hprime j _ hle ⟨_, hmod⟩ => ?_⟩
  · by_contra hcomposite
    have hsq : n.minFac ^ 2 ≤ n := Nat.minFac_sq_le_self (by omega) hcomposite
    have hroot : n.minFac ≤ Nat.sqrt n := Nat.le_sqrt'.2 hsq
    obtain ⟨j, hj, hcand⟩ := hreach n.minFac (Nat.minFac_prime (by omega)) n.minFac_dvd
    have hsteps : j ≤ j * stride := Nat.le_mul_of_pos_right j hstride
    refine hnone j (by omega) (hj.le.trans hroot) ?_
    rw [hj]
    exact ⟨hcand, Nat.mod_eq_zero_of_dvd n.minFac_dvd⟩
  · have hroot : Nat.sqrt n < n := Nat.sqrt_lt_self hn
    obtain hone | hself := hprime.eq_one_or_self_of_dvd _ (Nat.dvd_of_mod_eq_zero hmod) <;> omega

/-- The shape that the three tests share: the small primes `ps` first, then a scan of candidates from `d`
(R221 to R223). -/
def trialTest (ps : List Nat) (candidate : Nat → Bool) (stride d n : Nat) : Bool :=
  if n < 2 then false
  else if n ∈ ps then true
  else if ∃ p ∈ ps, n % p = 0 then false
  else noDivisor candidate stride n (isqrt n) (isqrt n) d

theorem primePlain_eq_trialTest (n : Nat) : primePlain n = trialTest [2] (fun _ => true) 2 3 n := by
  simp [primePlain, trialTest]

theorem primeWheel6_eq_trialTest (n : Nat) : primeWheel6 n = trialTest [2, 3] wheel6 1 5 n := by
  simp [primeWheel6, trialTest]

theorem primeWheel30_eq_trialTest (n : Nat) : primeWheel30 n = trialTest [2, 3, 5] wheel30 1 7 n := by
  simp [primeWheel30, trialTest]

/-- A test of that shape decides primality if its candidates take in every prime that is a multiple of no small one. -/
theorem trialTest_iff_prime {ps : List Nat} {candidate : Nat → Bool} {stride d n : Nat} (hlt : n < 2 ^ 128)
    (hps : ∀ p ∈ ps, p.Prime) (hd : 2 ≤ d) (hstride : 0 < stride)
    (hreach : ∀ q, 2 ≤ q → (∀ p ∈ ps, q % p ≠ 0) → ∃ j, d + j * stride = q ∧ candidate q = true) :
    trialTest ps candidate stride d n = true ↔ n.Prime := by
  unfold trialTest
  split_ifs with hsmall hmem hdvd
  · exact iff_of_false (by simp) fun hprime => hprime.two_le.not_gt hsmall
  · exact iff_of_true rfl (hps n hmem)
  · obtain ⟨p, hp, hmod⟩ := hdvd
    refine iff_of_false (by simp) fun hprime => hmem ?_
    rwa [← (Nat.prime_dvd_prime_iff_eq (hps p hp) hprime).1 (Nat.dvd_of_mod_eq_zero hmod)]
  · refine noDivisor_iff_prime (by omega) hlt hd hstride fun q hq hqn => hreach q hq.two_le fun p hp hmod => ?_
    exact hdvd ⟨p, hp, Nat.mod_eq_zero_of_dvd ((Nat.dvd_of_mod_eq_zero hmod).trans hqn)⟩

/-- The candidates of ISPRIME are the odd numbers from 3 on (R221). -/
theorem primePlain_iff_prime {n : Nat} (hlt : n < 2 ^ 128) : primePlain n = true ↔ n.Prime := by
  rw [primePlain_eq_trialTest]
  refine trialTest_iff_prime hlt (by norm_num) (by decide) (by decide) fun q hq hps => ?_
  have h2 : q % 2 ≠ 0 := hps 2 (by simp)
  exact ⟨(q - 3) / 2, by omega, rfl⟩

/-- The candidates of wheel 6 are the numbers from 5 on that are coprime to 6 (R222). -/
theorem primeWheel6_iff_prime {n : Nat} (hlt : n < 2 ^ 128) : primeWheel6 n = true ↔ n.Prime := by
  rw [primeWheel6_eq_trialTest]
  refine trialTest_iff_prime hlt (by norm_num) (by decide) (by decide) fun q hq hps => ?_
  have h2 : q % 2 ≠ 0 := hps 2 (by simp)
  have h3 : q % 3 ≠ 0 := hps 3 (by simp)
  refine ⟨q - 5, by omega, ?_⟩
  simp only [wheel6, List.contains_iff_mem, List.mem_cons, List.not_mem_nil, or_false]
  omega

/-- The residues modulo 30 that wheel 30 lists are those of the numbers coprime to 30 (R223). -/
theorem wheel30_of_coprime {q : Nat} (h2 : q % 2 ≠ 0) (h3 : q % 3 ≠ 0) (h5 : q % 5 ≠ 0) : wheel30 q = true := by
  have hresidue : ∀ r < 30, r % 2 ≠ 0 → r % 3 ≠ 0 → r % 5 ≠ 0 → [1, 7, 11, 13, 17, 19, 23, 29].contains r = true := by
    decide
  exact hresidue (q % 30) (Nat.mod_lt _ (by decide)) (by omega) (by omega) (by omega)

/-- The candidates of wheel 30 are the numbers from 7 on that are coprime to 30 (R223). -/
theorem primeWheel30_iff_prime {n : Nat} (hlt : n < 2 ^ 128) : primeWheel30 n = true ↔ n.Prime := by
  rw [primeWheel30_eq_trialTest]
  refine trialTest_iff_prime hlt (by norm_num) (by decide) (by decide) fun q hq hps => ?_
  have h2 : q % 2 ≠ 0 := hps 2 (by simp)
  have h3 : q % 3 ≠ 0 := hps 3 (by simp)
  have h5 : q % 5 ≠ 0 := hps 5 (by simp)
  have hsmall : ∀ q < 7, 2 ≤ q → q % 2 = 0 ∨ q % 3 = 0 ∨ q % 5 = 0 := by decide
  have h7 : 7 ≤ q := by
    by_contra hlt7
    obtain h | h | h := hsmall q (by omega) hq <;> contradiction
  exact ⟨q - 7, by omega, wheel30_of_coprime h2 h3 h5⟩

/-- A command that runs a test which decides primality completes with 1 exactly for the primes; a negative number is
none (R220). -/
theorem exec_trial {i : Instr} {s : State} {f : Nat → Bool} {w : Width} {x : Wide}
    (hrun : runOf i s = (runTrial f (opnd w x), s)) (hf : ∀ {n : Nat}, n < 2 ^ 128 → (f n = true ↔ n.Prime)) :
    exec i s = .next (afterSuccess (widthOf i) (if 0 ≤ opnd w x ∧ (opnd w x).toNat.Prime then 1 else 0)
      false false s) := by
  have hlt : (opnd w x).toNat < 2 ^ 128 :=
    (opnd_toNat_lt w x).trans_le (Nat.pow_le_pow_right (by decide) (by cases w <;> decide))
  have hsign : (0 ≤ opnd w x ∧ (opnd w x).toNat.Prime) ↔ f (opnd w x).toNat = true := by
    rw [hf hlt, and_iff_right_iff_imp]
    intro hprime
    have := hprime.two_le
    omega
  simp only [hsign]
  refine exec_of_success hrun ?_
  cases hvalue : f (opnd w x).toNat <;> simp [runTrial, returnValue, hvalue]

/-- Settles O48: the candidates of each of the three tests miss no prime factor up to the square root. -/
theorem trialDivisionDecidesPrimality : Obligations.TrialDivisionDecidesPrimality := by
  refine ⟨rfl, rfl, rfl, rfl, rfl, rfl, ?_⟩
  rintro i w s _ hi rfl
  simp only [List.mem_cons, List.not_mem_nil, Prod.mk.injEq, or_false] at hi
  obtain ⟨rfl, rfl⟩ | ⟨rfl, rfl⟩ | ⟨rfl, rfl⟩ | ⟨rfl, rfl⟩ | ⟨rfl, rfl⟩ | ⟨rfl, rfl⟩ := hi
  case inl | inr.inl => exact exec_trial rfl primePlain_iff_prime
  case inr.inr.inl | inr.inr.inr.inl => exact exec_trial rfl primeWheel6_iff_prime
  case inr.inr.inr.inr.inl | inr.inr.inr.inr.inr => exact exec_trial rfl primeWheel30_iff_prime

/-! ### The errors of the cached commands -/

/-- ISPRIME_C whose one read is a bus error (R225). -/
theorem runIsprimeC_unreadable {w : Width} {s : State} {n : Nat} (hq : s.bytesRead = []) (hfit : RegionFits s.latch)
    (hp : opnd w s.latch.p = n) (hn : n < s.latch.bsLen.toNat) (hr : ¬ InSome s.readable (bitByteAddress s.latch n)) :
    runIsprimeC w s = (raiseError .memFault, afterReads [bitByteAddress s.latch n] 0 s) := by
  have haddr := bitAddress_eq hfit hn
  have hbit := getBit_unreadable n s hq (by rwa [haddr, Bool.eq_false_iff, ne_eq, inRanges_iff])
  rw [haddr] at hbit
  rw [runIsprimeC, hp, lookupCheck_eq_none hfit hn, Int.toNat_natCast]
  dsimp only
  rw [hbit]
  rfl

theorem runIsprimeC_refused {w : Width} {s : State} {e : ErrorCode}
    (h : lookupCheck s.latch (opnd w s.latch.p) = some e) : runIsprimeC w s = (raiseError e, s) := by
  rw [runIsprimeC, h]

theorem runNextprimeC_refused {w : Width} {s : State} {e : ErrorCode}
    (h : scanCheck s.latch (opnd w s.latch.p) (opnd w s.latch.a) = some e) :
    runNextprimeC w s = (raiseError e, s) := by
  rw [runNextprimeC, h]

/-! ### Bytes that memory holds -/

/-- A statement for both widths of a cached command, with the bounds that R120 puts on its results. -/
theorem exists_bound_of_mem_widths {i j j' : Instr} {w : Width} (h : (i, w) ∈ [(j, Width.w64), (j', Width.w128)]) :
    ∃ bound, (i, w, bound) ∈ [(j, Width.w64, 2 ^ 63), (j', Width.w128, 2 ^ 127)] := by
  obtain ⟨rfl, rfl⟩ | ⟨rfl, rfl⟩ := mem_widths_iff.1 h
  · exact ⟨2 ^ 63, by simp⟩
  · exact ⟨2 ^ 127, by simp⟩

/-- The scan reads a known byte as what memory holds (R82). -/
theorem byteScanned_of_knownByte {s : State} {k : Nat} {b : Byte} (n : Nat)
    (h : KnownByte s (bitByteAddress s.latch k) b) : byteScanned s n k = b := by
  obtain ⟨_, hspecified, hheld⟩ := h
  rw [byteScanned, if_neg hspecified, hheld]

/-- No free value is drawn over known bytes (R88, R92). -/
theorem freeScanned_eq_zero {s : State} {n j : Nat}
    (h : ∀ k, n < k → k ≤ j → ∃ b, KnownByte s (bitByteAddress s.latch k) b) : freeScanned s n j = 0 := by
  rw [freeScanned, List.countP_eq_zero]
  intro a ha hfree
  obtain ⟨x, hx, rfl⟩ := List.mem_map.1 ha
  have hx' := List.mem_range.1 hx
  obtain ⟨_, _, hspecified, _⟩ := h (n + 1 + x) (by omega) (by omega)
  exact hspecified (of_decide_eq_true hfree)

/-! ### The cached commands -/

/-- Settles O49: a known byte draws no free value, so O50's clause on one read gives the bit that memory holds. -/
theorem isprimeCReadsItsBit : Obligations.IsprimeCReadsItsBit := by
  refine ⟨rfl, rfl, fun i w s hi => ?_⟩
  obtain ⟨bound, hcmd⟩ := exists_bound_of_mem_widths hi
  obtain ⟨hrun, _, _⟩ := runOf_eq_runIsprimeC s hcmd
  refine ⟨fun n b hq hp hfit hn hid hbyte => ?known, fun n hq hp hfit hn hr => ?fault, fun n hp hrange => ?range⟩
  case known =>
    obtain ⟨hr, hspecified, hheld⟩ := hbyte
    have h := (unspecifiedByteIsFree.1 i w bound s n hcmd hq hfit hp hn hr).1 hid
    rwa [if_neg hspecified, if_neg hspecified, hheld] at h
  case fault => exact exec_of_memFault (hrun.trans (runIsprimeC_unreadable hq hfit hp hn hr))
  case range =>
    rw [← hp] at hrange
    exact exec_of_error (hrun.trans (runIsprimeC_refused (lookupCheck_eq_some_iff.2 ⟨rfl, hrange⟩))) rfl

/-- Settles O51: over known bytes a scan draws no free value, so O50's clauses on scans give its end. -/
theorem nextprimeCFindsTheNextClearBit : Obligations.NextprimeCFindsTheNextClearBit := by
  refine ⟨rfl, rfl, fun i w s hi => ?_⟩
  obtain ⟨bound, hcmd⟩ := exists_bound_of_mem_widths hi
  refine ⟨fun n j lim hq hp ha hfit hlim hlt hset => ?scan, fun n lim hp ha hrange => ?range⟩
  case scan =>
    have hbelow : freeScanned s n (j - 1) = 0 := freeScanned_eq_zero fun k h1 h2 => by
      obtain ⟨b, hb, _⟩ := hset k h1 (by omega)
      exact ⟨b, hb⟩
    have hpassed : ∀ k, n < k → k < j → InSome s.readable (bitByteAddress s.latch k) ∧
        (byteScanned s n k).toNat / 2 ^ (k % 8) % 2 = 1 := fun k h1 h2 => by
      obtain ⟨b, hb, hone⟩ := hset k h1 h2
      exact ⟨hb.1, by rwa [byteScanned_of_knownByte n hb]⟩
    obtain ⟨hfound, hfault, hend⟩ := unspecifiedByteIsFree.2 i w bound s n j lim hcmd hq hfit hp ha hlim hlt hpassed
    rw [hbelow] at hfault hend
    refine ⟨fun hj hid ⟨b, hb, hclear⟩ => ?_, hfault, fun hlast hid => (hend hlast).1 hid⟩
    have hall : freeScanned s n j = 0 := freeScanned_eq_zero fun k h1 h2 => by
      obtain rfl | hne := eq_or_ne k j
      · exact ⟨b, hb⟩
      · obtain ⟨c, hc, _⟩ := hset k h1 (by omega)
        exact ⟨c, hc⟩
    rw [hall] at hfound
    exact (hfound hj hb.1 (by rwa [byteScanned_of_knownByte n hb])).1 hid
  case range =>
    obtain ⟨hrun, _, _⟩ := runOf_eq_runNextprimeC s hcmd
    rw [← hp, ← ha] at hrange
    exact exec_of_error (hrun.trans (runNextprimeC_refused (scanCheck_eq_some_iff.2 ⟨rfl, hrange⟩))) rfl

end Sys2Proof.Machine
end

section
/-! THEOREMS. Nothing stops the machine (60_exceptions.md R256, R265), and IRQ follows IE and DONE (R262, R263). -/

namespace Sys2Proof.Machine

/-- Settles O6: a step is the next event, or the completion event where none is left. -/
theorem stepAlwaysContinues : Obligations.StepAlwaysContinues := by
  intro s
  cases hin : s.inputs with
  | nil => exact ⟨_, step_nil hin⟩
  | cons e rest => exact ⟨_, step_cons hin⟩

/-! ### The interrupt output -/

theorem irq_eq_true_iff (s : State) : irq s = true ↔ s.ie = true ∧ s.status.done = true := Bool.and_eq_true_iff

theorem irq_of_done {s : State} (h : s.status.done = true) : irq s = s.ie := by rw [irq, h, Bool.and_true]

theorem irq_of_not_done {s : State} (h : s.status.done = false) : irq s = false := by rw [irq, h, Bool.and_false]

/-- A completion, with success or with an error, sets DONE and leaves IE as it was (R49, R263). -/
theorem exec_ie_and_done {i : Instr} {s t : State} (h : exec i s = .next t) :
    t.ie = s.ie ∧ t.status.done = true := by
  obtain ⟨_, ⟨_, _, _, rfl⟩, ⟨_, _, _, _, rfl⟩ | ⟨_, _, _, _, rfl⟩⟩ := exec_cases i s t h
  · exact ⟨rfl, rfl⟩
  · exact ⟨rfl, rfl⟩

/-- Settles O21: a completion sets DONE; an issue, a reset and a STATUS write with bit 1 set clear it. -/
theorem interruptFollowsDone : Obligations.InterruptFollowsDone := by
  refine ⟨irq_eq_true_iff, fun i s t h => ?completion, fun s t c rest hidle hin h => ?issue,
    fun s t rest hin h => ?reset, fun s t v rest hbit hin h => ?statusWrite⟩
  case completion =>
    obtain ⟨hie, hdone⟩ := exec_ie_and_done h
    rw [irq_of_done hdone, hie]
  case issue =>
    obtain ⟨_, hissue⟩ := commandWriteIssues s rest c hin
    cases h.symm.trans (hissue hidle)
    exact irq_of_not_done rfl
  case reset =>
    cases h.symm.trans (step_cons hin)
    exact irq_of_not_done rfl
  case statusWrite =>
    cases h.symm.trans (statusWriteClearsDoneAndOvr s rest v hin)
    exact irq_of_not_done (if_pos hbit)

end Sys2Proof.Machine
end

section
/-! THEOREMS. Reset: the registers take their reset values and a running command is abandoned, while system memory and
the platform stay as they were; the state after reset meets the invariant (70_reset_and_hazards.md R280, R281). -/

namespace Sys2Proof.Machine

theorem step_reset {s : State} {rest : List Event} (h : s.inputs = .reset :: rest) :
    step s = .next (resetBlock { s with inputs := rest }) := step_cons h

@[simp] theorem resetBlock_irq (s : State) : irq (resetBlock s) = irq State.reset := by
  rw [irq, irq, resetBlock_ie, resetBlock_status]

/-- Settles O23: the registers are those of `State.reset`, whose values O22 gives; the rest is kept by `resetBlock`. -/
theorem resetAbandonsTheCommand : Obligations.ResetAbandonsTheCommand := by
  intro s t rest hin hstep
  cases hstep.symm.trans (step_reset hin)
  obtain ⟨hie, hstatus, herrcode, hbudget, hbsBase, hbsLen, hpLo, hpHi, haLo, haHi, hbLo, hbHi, hrLo, hrHi, _, hirq⟩ :=
    resetRegisterValues
  exact ⟨hstatus, herrcode, hie, hbudget, hbsBase, hbsLen, hpLo, hpHi, haLo, haHi, hbLo, hbHi, hrLo, hrHi,
    (resetBlock_irq _).trans hirq, resetBlock_mem _, resetBlock_readable _, resetBlock_volatile _, resetBlock_inputs _⟩

/-- Settles O53, clause by clause in `inv_reset`: an idle block with its registers at their reset values. -/
theorem resetMeetsTheInvariant : Obligations.ResetMeetsTheInvariant := inv_reset

end Sys2Proof.Machine
end
